-- ==== Sys2Proof/Word.lean ====
section
/-! DEFINITION. The plainest types of the Volt32: bytes, 32-bit words and addresses, line numbers, lines, and the
eight type tags. -/

namespace Sys2Proof

/-- The smallest unit of memory, of IO space and of a line (R61). -/
abbrev Byte := BitVec 8

/-- An instruction word (R90). -/
abbrev Word := BitVec 32

/-- A byte address of memory or of IO space: "Addresses are 32-bit" (R4, R44). -/
abbrev Addr := BitVec 32

/-- The number of a 128-byte line of memory, `addr[31:7]` (R26; 25 bits, `90_conflicts.md` C1). -/
abbrev LineNo := BitVec 25

/-- The data field of a LAR, and the contents of a `swiarg` register: 128 bytes (R25, R33, R42). -/
abbrev Line := Vector Byte 128

/-- The number a 6-bit DLAR operand field holds, 0 to 63 (R22). -/
abbrev DReg := Fin 64

/-- The number a 6-bit ILAR operand field holds, 0 to 63; 63 is `ipc` (R22, R33). -/
abbrev IReg := Fin 64

/-- The physical number of a LAR: 0 to 63 belong to user mode, 64 to 127 to supervisor mode (R21). -/
abbrev PhysReg := Fin 128

/-- The type tag of a DLAR (R29), in the order of the spec's list. -/
inductive Ty where
  | u8 | s8 | u16 | s16 | u32 | s32 | u64 | s64
deriving DecidableEq, Repr

/-- 128 zero bytes. -/
def zeroLine : Line := Vector.replicate 128 0

end Sys2Proof
end

