-- ==== Sys2Proof/Config.lean ====
section
/-! DEFINITION. What an implementation fixes (R5, the open parameters) and the free values of the environment. -/

namespace Sys2Proof

/-- `BYTE_ORDER` (R60, D1): the order of the bytes of an element in a line, in memory and in IO space, and of an
instruction word. OPEN in the spec. -/
inductive ByteOrder where
  | little | big
deriving DecidableEq, Repr

/-- `STORE_MODE` (R5, R200, D16, U5): what a Group 5 store moves. -/
inductive StoreMode where
  /-- dA's scalar, into the line or the memory at the effective address: the value the spec adopts (D16). -/
  | scalarWrite
  /-- dA's whole line, which becomes the line at the effective address: the value the spec keeps beside it (U5). -/
  | lineRetag
deriving DecidableEq, Repr

/-- The implementation's fixed parameters. The value stands in `Machine.State.config`, where no step changes it, so
that a statement about every state is a statement about every implementation (log entries 1 and 9). -/
structure Config where
  /-- R60, D1: one value for data elements, instruction words and IO alike; no software can switch it. -/
  byteOrder : ByteOrder
  /-- R200, D16, U5: one value for all eight stores (log entries 9 and 24). -/
  storeMode : StoreMode
deriving DecidableEq, Repr

/-- FREE VALUE: the level of the interrupt request `irq` at a step (R333, R334, D22), for steps that the state's own
script of requests does not cover. Nothing constrains it (log entry 3). -/
opaque Config.irqAt : Nat → Bool

/-- FREE VALUE: the byte the environment answers, in the IO access of a given number, for an IO address (R81, R295,
D28, U14), where the state's own script of answers does not cover it. Nothing constrains it (log entry 4). -/
opaque Config.ioByteAt : Nat → Addr → Byte

end Sys2Proof
end

