-- ==== Sys2Proof/Machine/Bytes.lean ====
section
/-! DEFINITION. Byte strings and byte order (R60): the one place where the order of the bytes of an element, of an
instruction word and of an IO transfer is decided; and tables of 128 entries built from a function. -/

namespace Sys2Proof.Machine

/-- The table of 128 entries whose entry `k` is `f k`: a line from its bytes, a register file from its registers. -/
def tabulate {α : Type} (f : Fin 128 → α) : Vector α 128 :=
  ⟨⟨(List.finRange 128).map f⟩, by simp⟩

/-- The number a byte string denotes when its first byte is the least significant one. -/
def leNat : List Byte → Nat
  | [] => 0
  | b :: bs => b.toNat + 256 * leNat bs

/-- The `n` low bytes of a number, least significant byte first. -/
def leBytes : Nat → Nat → List Byte
  | 0, _ => []
  | n + 1, v => BitVec.ofNat 8 v :: leBytes n (v / 256)

/-- The number that bytes in address order denote (R60). -/
def bytesToNat (order : ByteOrder) (bs : List Byte) : Nat :=
  match order with
  | .little => leNat bs
  | .big => leNat bs.reverse

/-- The `n` bytes of a number in address order (R60). -/
def natToBytes (order : ByteOrder) (n v : Nat) : List Byte :=
  match order with
  | .little => leBytes n v
  | .big => (leBytes n v).reverse

end Sys2Proof.Machine
end

