-- ==== Sys2Proof/Syntax.lean ====
section
/-! DEFINITION. The instructions of the Volt32: one constructor per row of spec/opcode_table.json, in its order. The
name of a constructor is the mnemonic without its dots; `S`/`V` end the scalar and vector forms (`.s`, `.v`), `R` the
reductions, `U`/`S` the two values of the S bit in Group 9; `Addr` and `Iaddr` mark a `dB.addr` or `iB.addr` operand, `I`
in Group 9 an ILAR operand. Immediates are the numbers the fields denote: signed ones as Int (`isimm11` counts
instructions), counts and indices as Nat; their ranges are checked in WellFormed.lean. Fields an instruction does not use
(R105) are not part of it. -/

namespace Sys2Proof

inductive Instr where
  -- Group 0: arithmetic, logic, shifts, divide
  /-- `add.s dA, dB, dC` (R122) -/
  | addS (a b c : DReg)
  /-- `add.v dA, dB, dC` (R122) -/
  | addV (a b c : DReg)
  /-- `sub.s dA, dB, dC` (R123) -/
  | subS (a b c : DReg)
  /-- `sub.v dA, dB, dC` (R123) -/
  | subV (a b c : DReg)
  /-- `slt.s dA, dB, dC` (R124) -/
  | sltS (a b c : DReg)
  /-- `slt.v dA, dB, dC` (R124) -/
  | sltV (a b c : DReg)
  /-- `mul.s dA, dB, dC` (R125) -/
  | mulS (a b c : DReg)
  /-- `mul.v dA, dB, dC` (R125) -/
  | mulV (a b c : DReg)
  /-- `and.s dA, dB, dC` (R126) -/
  | andS (a b c : DReg)
  /-- `and.v dA, dB, dC` (R126) -/
  | andV (a b c : DReg)
  /-- `or.s dA, dB, dC` (R127) -/
  | orS (a b c : DReg)
  /-- `or.v dA, dB, dC` (R127) -/
  | orV (a b c : DReg)
  /-- `xor.s dA, dB, dC` (R128) -/
  | xorS (a b c : DReg)
  /-- `xor.v dA, dB, dC` (R128) -/
  | xorV (a b c : DReg)
  /-- `shl.s dA, dB, dC` (R129) -/
  | shlS (a b c : DReg)
  /-- `shl.v dA, dB, dC` (R129) -/
  | shlV (a b c : DReg)
  /-- `shr.s dA, dB, dC` (R130) -/
  | shrS (a b c : DReg)
  /-- `shr.v dA, dB, dC` (R130) -/
  | shrV (a b c : DReg)
  /-- `rol.s dA, dB, dC` (R131) -/
  | rolS (a b c : DReg)
  /-- `rol.v dA, dB, dC` (R131) -/
  | rolV (a b c : DReg)
  /-- `ror.s dA, dB, dC` (R132) -/
  | rorS (a b c : DReg)
  /-- `ror.v dA, dB, dC` (R132) -/
  | rorV (a b c : DReg)
  /-- `add.s dA, dB.addr, dC` (R133) -/
  | addAddrS (a b c : DReg)
  /-- `add.v dA, dB.addr, dC` (R133) -/
  | addAddrV (a b c : DReg)
  /-- `shl.s dA, dB.addr, dC` (R134) -/
  | shlAddrS (a b c : DReg)
  /-- `shl.v dA, dB.addr, dC` (R134) -/
  | shlAddrV (a b c : DReg)
  /-- `add.s dA, iB.addr, dC` (R135) -/
  | addIaddrS (a : DReg) (b : IReg) (c : DReg)
  /-- `add.v dA, iB.addr, dC` (R135) -/
  | addIaddrV (a : DReg) (b : IReg) (c : DReg)
  /-- `div.s dA, dB, dC, dD` (R136) -/
  | divS (a b c d : DReg)
  /-- `div.v dA, dB, dC, dD` (R137) -/
  | divV (a b c d : DReg)
  -- Group 1: reductions
  /-- `add.r dA, dB` (R151) -/
  | addR (a b : DReg)
  /-- `mul.r dA, dB` (R152) -/
  | mulR (a b : DReg)
  /-- `max.r dA, dB` (R153) -/
  | maxR (a b : DReg)
  /-- `min.r dA, dB` (R154) -/
  | minR (a b : DReg)
  /-- `and.r dA, dB` (R155) -/
  | andR (a b : DReg)
  /-- `or.r dA, dB` (R156) -/
  | orR (a b : DReg)
  /-- `xor.r dA, dB` (R157) -/
  | xorR (a b : DReg)
  -- Group 2: loads, register + immediate
  /-- `ldu8i dA, dB, simm12` (R166) -/
  | ldu8i (a b : DReg) (imm : Int)
  /-- `lds8i dA, dB, simm12` (R167) -/
  | lds8i (a b : DReg) (imm : Int)
  /-- `ldu16i dA, dB, simm12` (R168) -/
  | ldu16i (a b : DReg) (imm : Int)
  /-- `lds16i dA, dB, simm12` (R169) -/
  | lds16i (a b : DReg) (imm : Int)
  /-- `ldu32i dA, dB, simm12` (R170) -/
  | ldu32i (a b : DReg) (imm : Int)
  /-- `lds32i dA, dB, simm12` (R171) -/
  | lds32i (a b : DReg) (imm : Int)
  /-- `ldu64i dA, dB, simm12` (R172) -/
  | ldu64i (a b : DReg) (imm : Int)
  /-- `lds64i dA, dB, simm12` (R173) -/
  | lds64i (a b : DReg) (imm : Int)
  -- Group 3: loads, DLAR address + immediate
  /-- `ldu8i dA, dB.addr, simm12` (R174) -/
  | ldu8iAddr (a b : DReg) (imm : Int)
  /-- `lds8i dA, dB.addr, simm12` (R175) -/
  | lds8iAddr (a b : DReg) (imm : Int)
  /-- `ldu16i dA, dB.addr, simm12` (R176) -/
  | ldu16iAddr (a b : DReg) (imm : Int)
  /-- `lds16i dA, dB.addr, simm12` (R177) -/
  | lds16iAddr (a b : DReg) (imm : Int)
  /-- `ldu32i dA, dB.addr, simm12` (R178) -/
  | ldu32iAddr (a b : DReg) (imm : Int)
  /-- `lds32i dA, dB.addr, simm12` (R179) -/
  | lds32iAddr (a b : DReg) (imm : Int)
  /-- `ldu64i dA, dB.addr, simm12` (R180) -/
  | ldu64iAddr (a b : DReg) (imm : Int)
  /-- `lds64i dA, dB.addr, simm12` (R181) -/
  | lds64iAddr (a b : DReg) (imm : Int)
  -- Group 4: loads, register + register
  /-- `ldu8 dA, dB, dC` (R182) -/
  | ldu8 (a b c : DReg)
  /-- `lds8 dA, dB, dC` (R183) -/
  | lds8 (a b c : DReg)
  /-- `ldu16 dA, dB, dC` (R184) -/
  | ldu16 (a b c : DReg)
  /-- `lds16 dA, dB, dC` (R185) -/
  | lds16 (a b c : DReg)
  /-- `ldu32 dA, dB, dC` (R186) -/
  | ldu32 (a b c : DReg)
  /-- `lds32 dA, dB, dC` (R187) -/
  | lds32 (a b c : DReg)
  /-- `ldu64 dA, dB, dC` (R188) -/
  | ldu64 (a b c : DReg)
  /-- `lds64 dA, dB, dC` (R189) -/
  | lds64 (a b c : DReg)
  -- Group 5: stores
  /-- `stu8i dA, dB, simm12` (R201) -/
  | stu8i (a b : DReg) (imm : Int)
  /-- `sts8i dA, dB, simm12` (R202) -/
  | sts8i (a b : DReg) (imm : Int)
  /-- `stu16i dA, dB, simm12` (R203) -/
  | stu16i (a b : DReg) (imm : Int)
  /-- `sts16i dA, dB, simm12` (R204) -/
  | sts16i (a b : DReg) (imm : Int)
  /-- `stu32i dA, dB, simm12` (R205) -/
  | stu32i (a b : DReg) (imm : Int)
  /-- `sts32i dA, dB, simm12` (R206) -/
  | sts32i (a b : DReg) (imm : Int)
  /-- `stu64i dA, dB, simm12` (R207) -/
  | stu64i (a b : DReg) (imm : Int)
  /-- `sts64i dA, dB, simm12` (R208) -/
  | sts64i (a b : DReg) (imm : Int)
  -- Group 6: duplicate a scalar into a vector
  /-- `dpu8 dA, dB` (R216) -/
  | dpu8 (a b : DReg)
  /-- `dps8 dA, dB` (R217) -/
  | dps8 (a b : DReg)
  /-- `dpu16 dA, dB` (R218) -/
  | dpu16 (a b : DReg)
  /-- `dps16 dA, dB` (R219) -/
  | dps16 (a b : DReg)
  /-- `dpu32 dA, dB` (R220) -/
  | dpu32 (a b : DReg)
  /-- `dps32 dA, dB` (R221) -/
  | dps32 (a b : DReg)
  /-- `dpu64 dA, dB` (R222) -/
  | dpu64 (a b : DReg)
  /-- `dps64 dA, dB` (R223) -/
  | dps64 (a b : DReg)
  -- Group 7: instruction fetch
  /-- `fetch iA, iB, dC, jimm4` (R231) -/
  | fetchReg (a b : IReg) (c : DReg) (j : Nat)
  /-- `fetch iA, iB, isimm11, jimm4` (R232) -/
  | fetchImm (a b : IReg) (imm : Int) (j : Nat)
  -- Group 8: jumps and returns
  /-- `sel.s dA, iB, iimm5, jimm5` (R241) -/
  | selS (a : DReg) (b : IReg) (i j : Nat)
  /-- `sel.v dA, iB, iimm5, jimm5` (R241) -/
  | selV (a : DReg) (b : IReg) (i j : Nat)
  /-- `jz.s dA, iB, iimm5` (R242) -/
  | jzS (a : DReg) (b : IReg) (i : Nat)
  /-- `jz.v dA, iB, iimm5` (R242) -/
  | jzV (a : DReg) (b : IReg) (i : Nat)
  /-- `jnz.s dA, iB, iimm5` (R243) -/
  | jnzS (a : DReg) (b : IReg) (i : Nat)
  /-- `jnz.v dA, iB, iimm5` (R243) -/
  | jnzV (a : DReg) (b : IReg) (i : Nat)
  /-- `reti.s dA` (R244) -/
  | retiS (a : DReg)
  /-- `reti.v dA` (R244) -/
  | retiV (a : DReg)
  /-- `retx.s dA` (R245) -/
  | retxS (a : DReg)
  /-- `retx.v dA` (R245) -/
  | retxV (a : DReg)
  -- Group 9: LAR management
  /-- `getaddrs.U dA, dB, imm6` (R258) -/
  | getaddrsU (a b : DReg) (n : Nat)
  /-- `getaddrs.S dA, dB, imm6` (R258) -/
  | getaddrsS (a b : DReg) (n : Nat)
  /-- `getaddrs.U dA, iB, imm6` (R259) -/
  | getaddrsIU (a : DReg) (b : IReg) (n : Nat)
  /-- `getaddrs.S dA, iB, imm6` (R259) -/
  | getaddrsIS (a : DReg) (b : IReg) (n : Nat)
  /-- `gettypes.U dA, dB, imm6` (R260) -/
  | gettypesU (a b : DReg) (n : Nat)
  /-- `gettypes.S dA, dB, imm6` (R260) -/
  | gettypesS (a b : DReg) (n : Nat)
  /-- `ldm.U dA, dB, dC, imm6` (R261) -/
  | ldmU (a b c : DReg) (n : Nat)
  /-- `ldm.S dA, dB, dC, imm6` (R261) -/
  | ldmS (a b c : DReg) (n : Nat)
  /-- `fetchm.U iA, dB, imm6` (R262) -/
  | fetchmU (a : IReg) (b : DReg) (n : Nat)
  /-- `fetchm.S iA, dB, imm6` (R262) -/
  | fetchmS (a : IReg) (b : DReg) (n : Nat)
  /-- `reload.U dA, imm6` (R263) -/
  | reloadU (a : DReg) (n : Nat)
  /-- `reload.S dA, imm6` (R263) -/
  | reloadS (a : DReg) (n : Nat)
  /-- `flush.U dA, imm6` (R264) -/
  | flushU (a : DReg) (n : Nat)
  /-- `flush.S dA, imm6` (R264) -/
  | flushS (a : DReg) (n : Nat)
  /-- `reload.U iA, imm6` (R265) -/
  | reloadIU (a : IReg) (n : Nat)
  /-- `reload.S iA, imm6` (R265) -/
  | reloadIS (a : IReg) (n : Nat)
  -- Group 10: `cpy`, `swi`
  /-- `cpy.s dA, ie` (R276) -/
  | cpyFromIe (a : DReg)
  /-- `cpy.s ie, dA` (R277) -/
  | cpyToIe (a : DReg)
  /-- `cpy.s dA, xct` (R278) -/
  | cpyFromXct (a : DReg)
  /-- `cpy.s xct, dA` (R279) -/
  | cpyToXct (a : DReg)
  /-- `cpy.v dA, swiarg0` (R280) -/
  | cpyFromSwiarg0 (a : DReg)
  /-- `cpy.v swiarg0, dA` (R281) -/
  | cpyToSwiarg0 (a : DReg)
  /-- `cpy.v dA, swiarg1` (R282) -/
  | cpyFromSwiarg1 (a : DReg)
  /-- `cpy.v swiarg1, dA` (R283) -/
  | cpyToSwiarg1 (a : DReg)
  /-- `cpy.v dA, swiarg2` (R284) -/
  | cpyFromSwiarg2 (a : DReg)
  /-- `cpy.v swiarg2, dA` (R285) -/
  | cpyToSwiarg2 (a : DReg)
  /-- `cpy.v dA, swiarg3` (R286) -/
  | cpyFromSwiarg3 (a : DReg)
  /-- `cpy.v swiarg3, dA` (R287) -/
  | cpyToSwiarg3 (a : DReg)
  /-- `swi dA, dB, dC, dD` (R288) -/
  | swi (a b c d : DReg)
  -- Group 11: IO
  /-- `inu8.s dA, dB, dC` (R296) -/
  | inu8S (a b c : DReg)
  /-- `inu8.v dA, dB, dC` (R296) -/
  | inu8V (a b c : DReg)
  /-- `ins8.s dA, dB, dC` (R297) -/
  | ins8S (a b c : DReg)
  /-- `ins8.v dA, dB, dC` (R297) -/
  | ins8V (a b c : DReg)
  /-- `inu16.s dA, dB, dC` (R298) -/
  | inu16S (a b c : DReg)
  /-- `inu16.v dA, dB, dC` (R298) -/
  | inu16V (a b c : DReg)
  /-- `ins16.s dA, dB, dC` (R299) -/
  | ins16S (a b c : DReg)
  /-- `ins16.v dA, dB, dC` (R299) -/
  | ins16V (a b c : DReg)
  /-- `inu32.s dA, dB, dC` (R300) -/
  | inu32S (a b c : DReg)
  /-- `inu32.v dA, dB, dC` (R300) -/
  | inu32V (a b c : DReg)
  /-- `ins32.s dA, dB, dC` (R301) -/
  | ins32S (a b c : DReg)
  /-- `ins32.v dA, dB, dC` (R301) -/
  | ins32V (a b c : DReg)
  /-- `inu64.s dA, dB, dC` (R302) -/
  | inu64S (a b c : DReg)
  /-- `inu64.v dA, dB, dC` (R302) -/
  | inu64V (a b c : DReg)
  /-- `ins64.s dA, dB, dC` (R303) -/
  | ins64S (a b c : DReg)
  /-- `ins64.v dA, dB, dC` (R303) -/
  | ins64V (a b c : DReg)
  /-- `outu8.s dA, dB, dC` (R304) -/
  | outu8S (a b c : DReg)
  /-- `outu8.v dA, dB, dC` (R304) -/
  | outu8V (a b c : DReg)
  /-- `outs8.s dA, dB, dC` (R305) -/
  | outs8S (a b c : DReg)
  /-- `outs8.v dA, dB, dC` (R305) -/
  | outs8V (a b c : DReg)
  /-- `outu16.s dA, dB, dC` (R306) -/
  | outu16S (a b c : DReg)
  /-- `outu16.v dA, dB, dC` (R306) -/
  | outu16V (a b c : DReg)
  /-- `outs16.s dA, dB, dC` (R307) -/
  | outs16S (a b c : DReg)
  /-- `outs16.v dA, dB, dC` (R307) -/
  | outs16V (a b c : DReg)
  /-- `outu32.s dA, dB, dC` (R308) -/
  | outu32S (a b c : DReg)
  /-- `outu32.v dA, dB, dC` (R308) -/
  | outu32V (a b c : DReg)
  /-- `outs32.s dA, dB, dC` (R309) -/
  | outs32S (a b c : DReg)
  /-- `outs32.v dA, dB, dC` (R309) -/
  | outs32V (a b c : DReg)
  /-- `outu64.s dA, dB, dC` (R310) -/
  | outu64S (a b c : DReg)
  /-- `outu64.v dA, dB, dC` (R310) -/
  | outu64V (a b c : DReg)
  /-- `outs64.s dA, dB, dC` (R311) -/
  | outs64S (a b c : DReg)
  /-- `outs64.v dA, dB, dC` (R311) -/
  | outs64V (a b c : DReg)
deriving DecidableEq, Repr

end Sys2Proof
end

