-- ==== Sys2Proof/WellFormed.lean ====
section
/-! DEFINITION. Which terms of Instr an encoding exists for: the immediates lie in the ranges their fields have
(R97 to R102). Register operands are in range by their type. -/

namespace Sys2Proof

/-- `simm12`: a signed 12-bit displacement (R97). -/
def fitsSimm12 (x : Int) : Bool := decide (-2048 ≤ x) && decide (x ≤ 2047)

/-- `isimm11`: a signed 11-bit displacement, counted in instructions (R98). -/
def fitsIsimm11 (x : Int) : Bool := decide (-1024 ≤ x) && decide (x ≤ 1023)

/-- `jimm4`: 0 to 15 (R101). -/
def fitsJimm4 (n : Nat) : Bool := decide (n < 16)

/-- `iimm5`, `jimm5`: the index of an instruction in its line, 0 to 31 (R99, R100). -/
def fitsIndex5 (n : Nat) : Bool := decide (n < 32)

/-- `imm6`: 0 to 63 (R102). -/
def fitsImm6 (n : Nat) : Bool := decide (n < 64)

/-- Every immediate of the instruction lies in its field's range. -/
def Instr.wellFormed : Instr → Bool
  | .addS _ _ _ => true
  | .addV _ _ _ => true
  | .subS _ _ _ => true
  | .subV _ _ _ => true
  | .sltS _ _ _ => true
  | .sltV _ _ _ => true
  | .mulS _ _ _ => true
  | .mulV _ _ _ => true
  | .andS _ _ _ => true
  | .andV _ _ _ => true
  | .orS _ _ _ => true
  | .orV _ _ _ => true
  | .xorS _ _ _ => true
  | .xorV _ _ _ => true
  | .shlS _ _ _ => true
  | .shlV _ _ _ => true
  | .shrS _ _ _ => true
  | .shrV _ _ _ => true
  | .rolS _ _ _ => true
  | .rolV _ _ _ => true
  | .rorS _ _ _ => true
  | .rorV _ _ _ => true
  | .addAddrS _ _ _ => true
  | .addAddrV _ _ _ => true
  | .shlAddrS _ _ _ => true
  | .shlAddrV _ _ _ => true
  | .addIaddrS _ _ _ => true
  | .addIaddrV _ _ _ => true
  | .divS _ _ _ _ => true
  | .divV _ _ _ _ => true
  | .addR _ _ => true
  | .mulR _ _ => true
  | .maxR _ _ => true
  | .minR _ _ => true
  | .andR _ _ => true
  | .orR _ _ => true
  | .xorR _ _ => true
  | .ldu8i _ _ imm => fitsSimm12 imm
  | .lds8i _ _ imm => fitsSimm12 imm
  | .ldu16i _ _ imm => fitsSimm12 imm
  | .lds16i _ _ imm => fitsSimm12 imm
  | .ldu32i _ _ imm => fitsSimm12 imm
  | .lds32i _ _ imm => fitsSimm12 imm
  | .ldu64i _ _ imm => fitsSimm12 imm
  | .lds64i _ _ imm => fitsSimm12 imm
  | .ldu8iAddr _ _ imm => fitsSimm12 imm
  | .lds8iAddr _ _ imm => fitsSimm12 imm
  | .ldu16iAddr _ _ imm => fitsSimm12 imm
  | .lds16iAddr _ _ imm => fitsSimm12 imm
  | .ldu32iAddr _ _ imm => fitsSimm12 imm
  | .lds32iAddr _ _ imm => fitsSimm12 imm
  | .ldu64iAddr _ _ imm => fitsSimm12 imm
  | .lds64iAddr _ _ imm => fitsSimm12 imm
  | .ldu8 _ _ _ => true
  | .lds8 _ _ _ => true
  | .ldu16 _ _ _ => true
  | .lds16 _ _ _ => true
  | .ldu32 _ _ _ => true
  | .lds32 _ _ _ => true
  | .ldu64 _ _ _ => true
  | .lds64 _ _ _ => true
  | .stu8i _ _ imm => fitsSimm12 imm
  | .sts8i _ _ imm => fitsSimm12 imm
  | .stu16i _ _ imm => fitsSimm12 imm
  | .sts16i _ _ imm => fitsSimm12 imm
  | .stu32i _ _ imm => fitsSimm12 imm
  | .sts32i _ _ imm => fitsSimm12 imm
  | .stu64i _ _ imm => fitsSimm12 imm
  | .sts64i _ _ imm => fitsSimm12 imm
  | .dpu8 _ _ => true
  | .dps8 _ _ => true
  | .dpu16 _ _ => true
  | .dps16 _ _ => true
  | .dpu32 _ _ => true
  | .dps32 _ _ => true
  | .dpu64 _ _ => true
  | .dps64 _ _ => true
  | .fetchReg _ _ _ j => fitsJimm4 j
  | .fetchImm _ _ imm j => fitsIsimm11 imm && fitsJimm4 j
  | .selS _ _ i j => fitsIndex5 i && fitsIndex5 j
  | .selV _ _ i j => fitsIndex5 i && fitsIndex5 j
  | .jzS _ _ i => fitsIndex5 i
  | .jzV _ _ i => fitsIndex5 i
  | .jnzS _ _ i => fitsIndex5 i
  | .jnzV _ _ i => fitsIndex5 i
  | .retiS _ => true
  | .retiV _ => true
  | .retxS _ => true
  | .retxV _ => true
  | .getaddrsU _ _ n => fitsImm6 n
  | .getaddrsS _ _ n => fitsImm6 n
  | .getaddrsIU _ _ n => fitsImm6 n
  | .getaddrsIS _ _ n => fitsImm6 n
  | .gettypesU _ _ n => fitsImm6 n
  | .gettypesS _ _ n => fitsImm6 n
  | .ldmU _ _ _ n => fitsImm6 n
  | .ldmS _ _ _ n => fitsImm6 n
  | .fetchmU _ _ n => fitsImm6 n
  | .fetchmS _ _ n => fitsImm6 n
  | .reloadU _ n => fitsImm6 n
  | .reloadS _ n => fitsImm6 n
  | .flushU _ n => fitsImm6 n
  | .flushS _ n => fitsImm6 n
  | .reloadIU _ n => fitsImm6 n
  | .reloadIS _ n => fitsImm6 n
  | .cpyFromIe _ => true
  | .cpyToIe _ => true
  | .cpyFromXct _ => true
  | .cpyToXct _ => true
  | .cpyFromSwiarg0 _ => true
  | .cpyToSwiarg0 _ => true
  | .cpyFromSwiarg1 _ => true
  | .cpyToSwiarg1 _ => true
  | .cpyFromSwiarg2 _ => true
  | .cpyToSwiarg2 _ => true
  | .cpyFromSwiarg3 _ => true
  | .cpyToSwiarg3 _ => true
  | .swi _ _ _ _ => true
  | .inu8S _ _ _ => true
  | .inu8V _ _ _ => true
  | .ins8S _ _ _ => true
  | .ins8V _ _ _ => true
  | .inu16S _ _ _ => true
  | .inu16V _ _ _ => true
  | .ins16S _ _ _ => true
  | .ins16V _ _ _ => true
  | .inu32S _ _ _ => true
  | .inu32V _ _ _ => true
  | .ins32S _ _ _ => true
  | .ins32V _ _ _ => true
  | .inu64S _ _ _ => true
  | .inu64V _ _ _ => true
  | .ins64S _ _ _ => true
  | .ins64V _ _ _ => true
  | .outu8S _ _ _ => true
  | .outu8V _ _ _ => true
  | .outs8S _ _ _ => true
  | .outs8V _ _ _ => true
  | .outu16S _ _ _ => true
  | .outu16V _ _ _ => true
  | .outs16S _ _ _ => true
  | .outs16V _ _ _ => true
  | .outu32S _ _ _ => true
  | .outu32V _ _ _ => true
  | .outs32S _ _ _ => true
  | .outs32V _ _ _ => true
  | .outu64S _ _ _ => true
  | .outu64V _ _ _ => true
  | .outs64S _ _ _ => true
  | .outs64V _ _ _ => true

end Sys2Proof
end

