-- ==== Sys2Proof/Decode.lean ====
section
/-! DEFINITION. The decoder (R106), total on any bytes, and after it the encoder, both written from the encoding lines of
R91 and R92. -/

namespace Sys2Proof

/-- Why a word that is no undefined instruction is still not decoded. -/
inductive Rejection where
  /-- Fewer than the four bytes of an instruction were given (R90). -/
  | truncated
  /-- A bit that the encoding line prints as `0` is 1 (R105, D12, U6). -/
  | literalZero
  /-- A field that the instruction does not use is not zero (R105, D12, U6). -/
  | unusedField
deriving DecidableEq, Repr

/-- What the decoder answers. -/
inductive Decoded where
  /-- A defined instruction. -/
  | ok (i : Instr)
  /-- An undefined instruction: it raises exception 0x2 (R104). -/
  | undefined
  /-- No meaning is given to the word: the model refuses it (R105). -/
  | rejected (why : Rejection)
deriving DecidableEq, Repr

/-- The unsigned number in bits `hi` down to `lo` of a word (R6). -/
def field (w : Word) (hi lo : Nat) : Nat := w.toNat / 2 ^ lo % 2 ^ (hi + 1 - lo)

/-- The 6-bit register field whose lowest bit is `lo` (R92). -/
def regField (w : Word) (lo : Nat) : Fin 64 := ⟨w.toNat / 2 ^ lo % 64, Nat.mod_lt _ (by decide)⟩

/-- Register fields `a` [27:22], `b` [21:16], `c` [15:10], `d` [9:4] (R92). -/
def fieldA (w : Word) : Fin 64 := regField w 22
@[inherit_doc fieldA] def fieldB (w : Word) : Fin 64 := regField w 16
@[inherit_doc fieldA] def fieldC (w : Word) : Fin 64 := regField w 10
@[inherit_doc fieldA] def fieldD (w : Word) : Fin 64 := regField w 4

/-- `simm12`, bits [15:4], sign-extended (R97). -/
def simm12 (w : Word) : Int := (BitVec.ofNat 12 (field w 15 4)).toInt

/-- `isimm11`, bits [15:5], sign-extended; it counts instructions (R98). -/
def isimm11 (w : Word) : Int := (BitVec.ofNat 11 (field w 15 5)).toInt

/-- The rest of a decoding, provided bits `hi` down to `lo` are zero (R106 step 4). -/
def needZero (w : Word) (hi lo : Nat) (why : Rejection) (rest : Decoded) : Decoded :=
  if field w hi lo = 0 then rest else .rejected why

/-- The `v` bit at position `p`: 0 scalar, 1 vector (R93). -/
def scalarOrVector (w : Word) (p : Nat) (scalar vector : Instr) : Decoded :=
  if field w p p = 0 then .ok scalar else .ok vector

/-- The `S` bit, bit 3 of Group 9: 0 `.U`, 1 `.S` (R96). -/
def userOrSupervisor (w : Word) (user supervisor : Instr) : Decoded :=
  if field w 3 3 = 0 then .ok user else .ok supervisor

/-- Group 0 (R95, R103), given the register fields: Encoding 0 for opcodes 0 to 13, Encoding 1 for `div`. -/
def decodeGroup0 (w : Word) (a b c d : Fin 64) : Decoded :=
  match field w 3 0 with
  | 0 => needZero w 9 5 .literalZero (scalarOrVector w 4 (.addS a b c) (.addV a b c))
  | 1 => needZero w 9 5 .literalZero (scalarOrVector w 4 (.subS a b c) (.subV a b c))
  | 2 => needZero w 9 5 .literalZero (scalarOrVector w 4 (.sltS a b c) (.sltV a b c))
  | 3 => needZero w 9 5 .literalZero (scalarOrVector w 4 (.mulS a b c) (.mulV a b c))
  | 4 => needZero w 9 5 .literalZero (scalarOrVector w 4 (.andS a b c) (.andV a b c))
  | 5 => needZero w 9 5 .literalZero (scalarOrVector w 4 (.orS a b c) (.orV a b c))
  | 6 => needZero w 9 5 .literalZero (scalarOrVector w 4 (.xorS a b c) (.xorV a b c))
  | 7 => needZero w 9 5 .literalZero (scalarOrVector w 4 (.shlS a b c) (.shlV a b c))
  | 8 => needZero w 9 5 .literalZero (scalarOrVector w 4 (.shrS a b c) (.shrV a b c))
  | 9 => needZero w 9 5 .literalZero (scalarOrVector w 4 (.rolS a b c) (.rolV a b c))
  | 10 => needZero w 9 5 .literalZero (scalarOrVector w 4 (.rorS a b c) (.rorV a b c))
  | 11 => needZero w 9 5 .literalZero (scalarOrVector w 4 (.addAddrS a b c) (.addAddrV a b c))
  | 12 => needZero w 9 5 .literalZero (scalarOrVector w 4 (.shlAddrS a b c) (.shlAddrV a b c))
  | 13 => needZero w 9 5 .literalZero (scalarOrVector w 4 (.addIaddrS a b c) (.addIaddrV a b c))
  | 14 => .ok (.divS a b c d)
  | 15 => .ok (.divV a b c d)
  | _ => .undefined

/-- Group 1 (R94, R103, R158): the opcode is bits [3:0], the `c` field is unused. -/
def decodeGroup1 (w : Word) (a b : Fin 64) : Decoded :=
  match field w 3 0 with
  | 0 => needZero w 9 4 .literalZero (needZero w 15 10 .unusedField (.ok (.addR a b)))
  | 1 => needZero w 9 4 .literalZero (needZero w 15 10 .unusedField (.ok (.mulR a b)))
  | 2 => needZero w 9 4 .literalZero (needZero w 15 10 .unusedField (.ok (.maxR a b)))
  | 3 => needZero w 9 4 .literalZero (needZero w 15 10 .unusedField (.ok (.minR a b)))
  | 4 => needZero w 9 4 .literalZero (needZero w 15 10 .unusedField (.ok (.andR a b)))
  | 5 => needZero w 9 4 .literalZero (needZero w 15 10 .unusedField (.ok (.orR a b)))
  | 6 => needZero w 9 4 .literalZero (needZero w 15 10 .unusedField (.ok (.xorR a b)))
  | _ => .undefined

/-- Group 2, loads, register + immediate (R103). -/
def decodeGroup2 (w : Word) (a b : Fin 64) : Decoded :=
  match field w 3 0 with
  | 0 => .ok (.ldu8i a b (simm12 w))
  | 1 => .ok (.lds8i a b (simm12 w))
  | 2 => .ok (.ldu16i a b (simm12 w))
  | 3 => .ok (.lds16i a b (simm12 w))
  | 4 => .ok (.ldu32i a b (simm12 w))
  | 5 => .ok (.lds32i a b (simm12 w))
  | 6 => .ok (.ldu64i a b (simm12 w))
  | 7 => .ok (.lds64i a b (simm12 w))
  | _ => .undefined

/-- Group 3, loads, DLAR address + immediate (R103). -/
def decodeGroup3 (w : Word) (a b : Fin 64) : Decoded :=
  match field w 3 0 with
  | 0 => .ok (.ldu8iAddr a b (simm12 w))
  | 1 => .ok (.lds8iAddr a b (simm12 w))
  | 2 => .ok (.ldu16iAddr a b (simm12 w))
  | 3 => .ok (.lds16iAddr a b (simm12 w))
  | 4 => .ok (.ldu32iAddr a b (simm12 w))
  | 5 => .ok (.lds32iAddr a b (simm12 w))
  | 6 => .ok (.ldu64iAddr a b (simm12 w))
  | 7 => .ok (.lds64iAddr a b (simm12 w))
  | _ => .undefined

/-- Group 4, loads, register + register (R103). -/
def decodeGroup4 (w : Word) (a b c : Fin 64) : Decoded :=
  match field w 3 0 with
  | 0 => needZero w 9 4 .literalZero (.ok (.ldu8 a b c))
  | 1 => needZero w 9 4 .literalZero (.ok (.lds8 a b c))
  | 2 => needZero w 9 4 .literalZero (.ok (.ldu16 a b c))
  | 3 => needZero w 9 4 .literalZero (.ok (.lds16 a b c))
  | 4 => needZero w 9 4 .literalZero (.ok (.ldu32 a b c))
  | 5 => needZero w 9 4 .literalZero (.ok (.lds32 a b c))
  | 6 => needZero w 9 4 .literalZero (.ok (.ldu64 a b c))
  | 7 => needZero w 9 4 .literalZero (.ok (.lds64 a b c))
  | _ => .undefined

/-- Group 5, stores (R103). -/
def decodeGroup5 (w : Word) (a b : Fin 64) : Decoded :=
  match field w 3 0 with
  | 0 => .ok (.stu8i a b (simm12 w))
  | 1 => .ok (.sts8i a b (simm12 w))
  | 2 => .ok (.stu16i a b (simm12 w))
  | 3 => .ok (.sts16i a b (simm12 w))
  | 4 => .ok (.stu32i a b (simm12 w))
  | 5 => .ok (.sts32i a b (simm12 w))
  | 6 => .ok (.stu64i a b (simm12 w))
  | 7 => .ok (.sts64i a b (simm12 w))
  | _ => .undefined

/-- Group 6, duplicate (R103). -/
def decodeGroup6 (w : Word) (a b : Fin 64) : Decoded :=
  match field w 3 0 with
  | 0 => needZero w 15 4 .literalZero (.ok (.dpu8 a b))
  | 1 => needZero w 15 4 .literalZero (.ok (.dps8 a b))
  | 2 => needZero w 15 4 .literalZero (.ok (.dpu16 a b))
  | 3 => needZero w 15 4 .literalZero (.ok (.dps16 a b))
  | 4 => needZero w 15 4 .literalZero (.ok (.dpu32 a b))
  | 5 => needZero w 15 4 .literalZero (.ok (.dps32 a b))
  | 6 => needZero w 15 4 .literalZero (.ok (.dpu64 a b))
  | 7 => needZero w 15 4 .literalZero (.ok (.dps64 a b))
  | _ => .undefined

/-- Group 7, instruction fetch: the opcode is bit 0 (R95, R103). -/
def decodeGroup7 (w : Word) (a b c : Fin 64) : Decoded :=
  match field w 0 0 with
  | 0 => needZero w 9 5 .literalZero (.ok (.fetchReg a b c (field w 4 1)))
  | _ => .ok (.fetchImm a b (isimm11 w) (field w 4 1))

/-- Group 8, jumps and returns (R103): bit 15 is a literal zero. -/
def decodeGroup8 (w : Word) (a b : Fin 64) : Decoded :=
  match field w 3 0 with
  | 0 => needZero w 15 15 .literalZero (scalarOrVector w 4 (.selS a b (field w 14 10) (field w 9 5)) (.selV a b (field w 14 10) (field w 9 5)))
  | 1 => needZero w 15 15 .literalZero (needZero w 9 5 .unusedField (scalarOrVector w 4 (.jzS a b (field w 14 10)) (.jzV a b (field w 14 10))))
  | 2 => needZero w 15 15 .literalZero (needZero w 9 5 .unusedField (scalarOrVector w 4 (.jnzS a b (field w 14 10)) (.jnzV a b (field w 14 10))))
  | 3 => needZero w 15 15 .literalZero (needZero w 21 16 .unusedField (needZero w 14 5 .unusedField (scalarOrVector w 4 (.retiS a) (.retiV a))))
  | 4 => needZero w 15 15 .literalZero (needZero w 21 16 .unusedField (needZero w 14 5 .unusedField (scalarOrVector w 4 (.retxS a) (.retxV a))))
  | _ => .undefined

/-- Group 9, LAR management (R103): the opcode is bits [2:0], every opcode is defined. -/
def decodeGroup9 (w : Word) (a b c : Fin 64) : Decoded :=
  match field w 2 0 with
  | 0 => needZero w 15 10 .unusedField (userOrSupervisor w (.getaddrsU a b (field w 9 4)) (.getaddrsS a b (field w 9 4)))
  | 1 => needZero w 15 10 .unusedField (userOrSupervisor w (.getaddrsIU a b (field w 9 4)) (.getaddrsIS a b (field w 9 4)))
  | 2 => needZero w 15 10 .unusedField (userOrSupervisor w (.gettypesU a b (field w 9 4)) (.gettypesS a b (field w 9 4)))
  | 3 => userOrSupervisor w (.ldmU a b c (field w 9 4)) (.ldmS a b c (field w 9 4))
  | 4 => needZero w 15 10 .unusedField (userOrSupervisor w (.fetchmU a b (field w 9 4)) (.fetchmS a b (field w 9 4)))
  | 5 => needZero w 21 16 .unusedField (needZero w 15 10 .unusedField (userOrSupervisor w (.reloadU a (field w 9 4)) (.reloadS a (field w 9 4))))
  | 6 => needZero w 21 16 .unusedField (needZero w 15 10 .unusedField (userOrSupervisor w (.flushU a (field w 9 4)) (.flushS a (field w 9 4))))
  | _ => needZero w 21 16 .unusedField (needZero w 15 10 .unusedField (userOrSupervisor w (.reloadIU a (field w 9 4)) (.reloadIS a (field w 9 4))))

/-- Group 10, `cpy` and `swi` (R103): the twelve `cpy` use the `a` field only. -/
def decodeGroup10 (w : Word) (a b c d : Fin 64) : Decoded :=
  match field w 3 0 with
  | 0 => needZero w 21 16 .unusedField (needZero w 15 4 .unusedField (.ok (.cpyFromIe a)))
  | 1 => needZero w 21 16 .unusedField (needZero w 15 4 .unusedField (.ok (.cpyToIe a)))
  | 2 => needZero w 21 16 .unusedField (needZero w 15 4 .unusedField (.ok (.cpyFromXct a)))
  | 3 => needZero w 21 16 .unusedField (needZero w 15 4 .unusedField (.ok (.cpyToXct a)))
  | 4 => needZero w 21 16 .unusedField (needZero w 15 4 .unusedField (.ok (.cpyFromSwiarg0 a)))
  | 5 => needZero w 21 16 .unusedField (needZero w 15 4 .unusedField (.ok (.cpyToSwiarg0 a)))
  | 6 => needZero w 21 16 .unusedField (needZero w 15 4 .unusedField (.ok (.cpyFromSwiarg1 a)))
  | 7 => needZero w 21 16 .unusedField (needZero w 15 4 .unusedField (.ok (.cpyToSwiarg1 a)))
  | 8 => needZero w 21 16 .unusedField (needZero w 15 4 .unusedField (.ok (.cpyFromSwiarg2 a)))
  | 9 => needZero w 21 16 .unusedField (needZero w 15 4 .unusedField (.ok (.cpyToSwiarg2 a)))
  | 10 => needZero w 21 16 .unusedField (needZero w 15 4 .unusedField (.ok (.cpyFromSwiarg3 a)))
  | 11 => needZero w 21 16 .unusedField (needZero w 15 4 .unusedField (.ok (.cpyToSwiarg3 a)))
  | 12 => .ok (.swi a b c d)
  | _ => .undefined

/-- Group 11, IO (R103): the opcode is bits [4:0], `v` is bit 5. -/
def decodeGroup11 (w : Word) (a b c : Fin 64) : Decoded :=
  match field w 4 0 with
  | 0 => needZero w 9 6 .literalZero (scalarOrVector w 5 (.inu8S a b c) (.inu8V a b c))
  | 1 => needZero w 9 6 .literalZero (scalarOrVector w 5 (.ins8S a b c) (.ins8V a b c))
  | 2 => needZero w 9 6 .literalZero (scalarOrVector w 5 (.inu16S a b c) (.inu16V a b c))
  | 3 => needZero w 9 6 .literalZero (scalarOrVector w 5 (.ins16S a b c) (.ins16V a b c))
  | 4 => needZero w 9 6 .literalZero (scalarOrVector w 5 (.inu32S a b c) (.inu32V a b c))
  | 5 => needZero w 9 6 .literalZero (scalarOrVector w 5 (.ins32S a b c) (.ins32V a b c))
  | 6 => needZero w 9 6 .literalZero (scalarOrVector w 5 (.inu64S a b c) (.inu64V a b c))
  | 7 => needZero w 9 6 .literalZero (scalarOrVector w 5 (.ins64S a b c) (.ins64V a b c))
  | 16 => needZero w 9 6 .literalZero (scalarOrVector w 5 (.outu8S a b c) (.outu8V a b c))
  | 17 => needZero w 9 6 .literalZero (scalarOrVector w 5 (.outs8S a b c) (.outs8V a b c))
  | 18 => needZero w 9 6 .literalZero (scalarOrVector w 5 (.outu16S a b c) (.outu16V a b c))
  | 19 => needZero w 9 6 .literalZero (scalarOrVector w 5 (.outs16S a b c) (.outs16V a b c))
  | 20 => needZero w 9 6 .literalZero (scalarOrVector w 5 (.outu32S a b c) (.outu32V a b c))
  | 21 => needZero w 9 6 .literalZero (scalarOrVector w 5 (.outs32S a b c) (.outs32V a b c))
  | 22 => needZero w 9 6 .literalZero (scalarOrVector w 5 (.outu64S a b c) (.outu64V a b c))
  | 23 => needZero w 9 6 .literalZero (scalarOrVector w 5 (.outs64S a b c) (.outs64V a b c))
  | _ => .undefined

/-- The decoding of an instruction word: the group is bits [31:28] (R91, R106). -/
def decode (w : Word) : Decoded :=
  match field w 31 28 with
  | 0 => decodeGroup0 w (fieldA w) (fieldB w) (fieldC w) (fieldD w)
  | 1 => decodeGroup1 w (fieldA w) (fieldB w)
  | 2 => decodeGroup2 w (fieldA w) (fieldB w)
  | 3 => decodeGroup3 w (fieldA w) (fieldB w)
  | 4 => decodeGroup4 w (fieldA w) (fieldB w) (fieldC w)
  | 5 => decodeGroup5 w (fieldA w) (fieldB w)
  | 6 => decodeGroup6 w (fieldA w) (fieldB w)
  | 7 => decodeGroup7 w (fieldA w) (fieldB w) (fieldC w)
  | 8 => decodeGroup8 w (fieldA w) (fieldB w)
  | 9 => decodeGroup9 w (fieldA w) (fieldB w) (fieldC w)
  | 10 => decodeGroup10 w (fieldA w) (fieldB w) (fieldC w) (fieldD w)
  | 11 => decodeGroup11 w (fieldA w) (fieldB w) (fieldC w)
  | _ => .undefined

/-- The decoding of the first instruction of a byte string in address order (R60, R90). -/
def decodeBytes (order : ByteOrder) : List Byte → Decoded
  | b0 :: b1 :: b2 :: b3 :: _ => decode (BitVec.ofNat 32 (Machine.bytesToNat order [b0, b1, b2, b3]))
  | _ => .rejected .truncated

/-- The four bytes of an instruction word in address order (R60, R90). -/
def wordBytes (order : ByteOrder) (w : Word) : List Byte := Machine.natToBytes order 4 w.toNat

/-- The instruction the decoder reads from an instruction whose low `nbits` bits are those of `w` and whose other bits are
zero, laid out as the hardware stores it. Both byte orders give the same answer; the layout is the launch state's. -/
def decodeTableWord (nbits w : Nat) : Option Instr :=
  match decodeBytes .little (wordBytes .little (BitVec.ofNat 32 (w % 2 ^ nbits))) with
  | .ok i => some i
  | .undefined => none
  | .rejected _ => none

/-! ### The encoder -/

/-- A word from its group, its `a` and `b` fields and its low 16 bits (R91, R92). -/
def pack (g : Nat) (a b : Fin 64) (low : Nat) : Word :=
  BitVec.ofNat 32 (g * 2 ^ 28 + a.val * 2 ^ 22 + b.val * 2 ^ 16 + low)

/-- `gggg aaaa aabb bbbb cccc cc..` with the low ten bits given. -/
def fmtABC (g : Nat) (a b c : Fin 64) (low : Nat) : Word := pack g a b (c.val * 2 ^ 10 + low)

/-- `gggg aaaa aabb bbbb cccc ccdd dddd oooo` -/
def fmtABCD (g : Nat) (a b c d : Fin 64) (o : Nat) : Word := fmtABC g a b c (d.val * 2 ^ 4 + o)

/-- `gggg aaaa aabb bbbb iiii iiii iiii oooo` with `simm12` (R97). -/
def fmtImm (g : Nat) (a b : Fin 64) (imm : Int) (o : Nat) : Word :=
  pack g a b ((BitVec.ofInt 12 imm).toNat * 2 ^ 4 + o)

/-- `0111 aaaa aabb bbbb cccc cc00 000j jjj0` -/
def fmtFetchReg (a b c : Fin 64) (j : Nat) : Word := fmtABC 7 a b c (j * 2)

/-- `0111 aaaa aabb bbbb iiii iiii iiij jjj1` with `isimm11` (R98). -/
def fmtFetchImm (a b : Fin 64) (imm : Int) (j : Nat) : Word :=
  pack 7 a b ((BitVec.ofInt 11 imm).toNat * 2 ^ 5 + j * 2 + 1)

/-- `1000 aaaa aabb bbbb 0iii iijj jjjv oooo` with `v` and the opcode together. -/
def fmtJump (a b : Fin 64) (i j vo : Nat) : Word := pack 8 a b (i * 2 ^ 10 + j * 2 ^ 5 + vo)

/-- `1001 aaaa aabb bbbb cccc ccii iiii Sooo` with `S` and the opcode together. -/
def fmtLar (a b c : Fin 64) (n so : Nat) : Word := fmtABC 9 a b c (n * 2 ^ 4 + so)

/-- The word of a well-formed instruction (R103); fields it does not use are zero (R105). -/
def encode : Instr → Word
  | .addS a b c => fmtABC 0 a b c 0
  | .addV a b c => fmtABC 0 a b c 16
  | .subS a b c => fmtABC 0 a b c 1
  | .subV a b c => fmtABC 0 a b c 17
  | .sltS a b c => fmtABC 0 a b c 2
  | .sltV a b c => fmtABC 0 a b c 18
  | .mulS a b c => fmtABC 0 a b c 3
  | .mulV a b c => fmtABC 0 a b c 19
  | .andS a b c => fmtABC 0 a b c 4
  | .andV a b c => fmtABC 0 a b c 20
  | .orS a b c => fmtABC 0 a b c 5
  | .orV a b c => fmtABC 0 a b c 21
  | .xorS a b c => fmtABC 0 a b c 6
  | .xorV a b c => fmtABC 0 a b c 22
  | .shlS a b c => fmtABC 0 a b c 7
  | .shlV a b c => fmtABC 0 a b c 23
  | .shrS a b c => fmtABC 0 a b c 8
  | .shrV a b c => fmtABC 0 a b c 24
  | .rolS a b c => fmtABC 0 a b c 9
  | .rolV a b c => fmtABC 0 a b c 25
  | .rorS a b c => fmtABC 0 a b c 10
  | .rorV a b c => fmtABC 0 a b c 26
  | .addAddrS a b c => fmtABC 0 a b c 11
  | .addAddrV a b c => fmtABC 0 a b c 27
  | .shlAddrS a b c => fmtABC 0 a b c 12
  | .shlAddrV a b c => fmtABC 0 a b c 28
  | .addIaddrS a b c => fmtABC 0 a b c 13
  | .addIaddrV a b c => fmtABC 0 a b c 29
  | .divS a b c d => fmtABCD 0 a b c d 14
  | .divV a b c d => fmtABCD 0 a b c d 15
  | .addR a b => fmtABC 1 a b 0 0
  | .mulR a b => fmtABC 1 a b 0 1
  | .maxR a b => fmtABC 1 a b 0 2
  | .minR a b => fmtABC 1 a b 0 3
  | .andR a b => fmtABC 1 a b 0 4
  | .orR a b => fmtABC 1 a b 0 5
  | .xorR a b => fmtABC 1 a b 0 6
  | .ldu8i a b imm => fmtImm 2 a b imm 0
  | .lds8i a b imm => fmtImm 2 a b imm 1
  | .ldu16i a b imm => fmtImm 2 a b imm 2
  | .lds16i a b imm => fmtImm 2 a b imm 3
  | .ldu32i a b imm => fmtImm 2 a b imm 4
  | .lds32i a b imm => fmtImm 2 a b imm 5
  | .ldu64i a b imm => fmtImm 2 a b imm 6
  | .lds64i a b imm => fmtImm 2 a b imm 7
  | .ldu8iAddr a b imm => fmtImm 3 a b imm 0
  | .lds8iAddr a b imm => fmtImm 3 a b imm 1
  | .ldu16iAddr a b imm => fmtImm 3 a b imm 2
  | .lds16iAddr a b imm => fmtImm 3 a b imm 3
  | .ldu32iAddr a b imm => fmtImm 3 a b imm 4
  | .lds32iAddr a b imm => fmtImm 3 a b imm 5
  | .ldu64iAddr a b imm => fmtImm 3 a b imm 6
  | .lds64iAddr a b imm => fmtImm 3 a b imm 7
  | .ldu8 a b c => fmtABC 4 a b c 0
  | .lds8 a b c => fmtABC 4 a b c 1
  | .ldu16 a b c => fmtABC 4 a b c 2
  | .lds16 a b c => fmtABC 4 a b c 3
  | .ldu32 a b c => fmtABC 4 a b c 4
  | .lds32 a b c => fmtABC 4 a b c 5
  | .ldu64 a b c => fmtABC 4 a b c 6
  | .lds64 a b c => fmtABC 4 a b c 7
  | .stu8i a b imm => fmtImm 5 a b imm 0
  | .sts8i a b imm => fmtImm 5 a b imm 1
  | .stu16i a b imm => fmtImm 5 a b imm 2
  | .sts16i a b imm => fmtImm 5 a b imm 3
  | .stu32i a b imm => fmtImm 5 a b imm 4
  | .sts32i a b imm => fmtImm 5 a b imm 5
  | .stu64i a b imm => fmtImm 5 a b imm 6
  | .sts64i a b imm => fmtImm 5 a b imm 7
  | .dpu8 a b => fmtABC 6 a b 0 0
  | .dps8 a b => fmtABC 6 a b 0 1
  | .dpu16 a b => fmtABC 6 a b 0 2
  | .dps16 a b => fmtABC 6 a b 0 3
  | .dpu32 a b => fmtABC 6 a b 0 4
  | .dps32 a b => fmtABC 6 a b 0 5
  | .dpu64 a b => fmtABC 6 a b 0 6
  | .dps64 a b => fmtABC 6 a b 0 7
  | .fetchReg a b c j => fmtFetchReg a b c j
  | .fetchImm a b imm j => fmtFetchImm a b imm j
  | .selS a b i j => fmtJump a b i j 0
  | .selV a b i j => fmtJump a b i j 16
  | .jzS a b i => fmtJump a b i 0 1
  | .jzV a b i => fmtJump a b i 0 17
  | .jnzS a b i => fmtJump a b i 0 2
  | .jnzV a b i => fmtJump a b i 0 18
  | .retiS a => fmtJump a 0 0 0 3
  | .retiV a => fmtJump a 0 0 0 19
  | .retxS a => fmtJump a 0 0 0 4
  | .retxV a => fmtJump a 0 0 0 20
  | .getaddrsU a b n => fmtLar a b 0 n 0
  | .getaddrsS a b n => fmtLar a b 0 n 8
  | .getaddrsIU a b n => fmtLar a b 0 n 1
  | .getaddrsIS a b n => fmtLar a b 0 n 9
  | .gettypesU a b n => fmtLar a b 0 n 2
  | .gettypesS a b n => fmtLar a b 0 n 10
  | .ldmU a b c n => fmtLar a b c n 3
  | .ldmS a b c n => fmtLar a b c n 11
  | .fetchmU a b n => fmtLar a b 0 n 4
  | .fetchmS a b n => fmtLar a b 0 n 12
  | .reloadU a n => fmtLar a 0 0 n 5
  | .reloadS a n => fmtLar a 0 0 n 13
  | .flushU a n => fmtLar a 0 0 n 6
  | .flushS a n => fmtLar a 0 0 n 14
  | .reloadIU a n => fmtLar a 0 0 n 7
  | .reloadIS a n => fmtLar a 0 0 n 15
  | .cpyFromIe a => fmtABCD 10 a 0 0 0 0
  | .cpyToIe a => fmtABCD 10 a 0 0 0 1
  | .cpyFromXct a => fmtABCD 10 a 0 0 0 2
  | .cpyToXct a => fmtABCD 10 a 0 0 0 3
  | .cpyFromSwiarg0 a => fmtABCD 10 a 0 0 0 4
  | .cpyToSwiarg0 a => fmtABCD 10 a 0 0 0 5
  | .cpyFromSwiarg1 a => fmtABCD 10 a 0 0 0 6
  | .cpyToSwiarg1 a => fmtABCD 10 a 0 0 0 7
  | .cpyFromSwiarg2 a => fmtABCD 10 a 0 0 0 8
  | .cpyToSwiarg2 a => fmtABCD 10 a 0 0 0 9
  | .cpyFromSwiarg3 a => fmtABCD 10 a 0 0 0 10
  | .cpyToSwiarg3 a => fmtABCD 10 a 0 0 0 11
  | .swi a b c d => fmtABCD 10 a b c d 12
  | .inu8S a b c => fmtABC 11 a b c 0
  | .inu8V a b c => fmtABC 11 a b c 32
  | .ins8S a b c => fmtABC 11 a b c 1
  | .ins8V a b c => fmtABC 11 a b c 33
  | .inu16S a b c => fmtABC 11 a b c 2
  | .inu16V a b c => fmtABC 11 a b c 34
  | .ins16S a b c => fmtABC 11 a b c 3
  | .ins16V a b c => fmtABC 11 a b c 35
  | .inu32S a b c => fmtABC 11 a b c 4
  | .inu32V a b c => fmtABC 11 a b c 36
  | .ins32S a b c => fmtABC 11 a b c 5
  | .ins32V a b c => fmtABC 11 a b c 37
  | .inu64S a b c => fmtABC 11 a b c 6
  | .inu64V a b c => fmtABC 11 a b c 38
  | .ins64S a b c => fmtABC 11 a b c 7
  | .ins64V a b c => fmtABC 11 a b c 39
  | .outu8S a b c => fmtABC 11 a b c 16
  | .outu8V a b c => fmtABC 11 a b c 48
  | .outs8S a b c => fmtABC 11 a b c 17
  | .outs8V a b c => fmtABC 11 a b c 49
  | .outu16S a b c => fmtABC 11 a b c 18
  | .outu16V a b c => fmtABC 11 a b c 50
  | .outs16S a b c => fmtABC 11 a b c 19
  | .outs16V a b c => fmtABC 11 a b c 51
  | .outu32S a b c => fmtABC 11 a b c 20
  | .outu32V a b c => fmtABC 11 a b c 52
  | .outs32S a b c => fmtABC 11 a b c 21
  | .outs32V a b c => fmtABC 11 a b c 53
  | .outu64S a b c => fmtABC 11 a b c 22
  | .outu64V a b c => fmtABC 11 a b c 54
  | .outs64S a b c => fmtABC 11 a b c 23
  | .outs64V a b c => fmtABC 11 a b c 55

end Sys2Proof
end

