-- ==== Sys2Proof/Machine/Launch.lean ====
section
/-! DEFINITION. The launch state: the values this model names for what the spec leaves unspecified after reset (R46,
R360, D29, U11), and for the parameters of the implementation. All but `storeMode`, which is the spec's, are a DESIGN CHOICE
of the model (log entries 1 and 2), and no statement rests on them. -/

namespace Sys2Proof.Machine.Launch

/-- DESIGN CHOICE (log entry 1), unsafe: the byte order of every example of the spec (D1). -/
def byteOrder : ByteOrder := .little

/-- The value of `STORE_MODE` that the spec adopts (R200, D16; log entry 9). -/
def storeMode : StoreMode := .scalarWrite

/-- DESIGN CHOICE (log entry 2), unsafe: the address of every LAR that reset does not define. It is the last line of the
address space, so that no such LAR claims to hold line 0 or the lines a program lies in: the spec's test programs need
that of their launch state (`95_test_vectors.md` Programs A, C, D and E). -/
def larAddr : Addr := 0xFFFFFF80

/-- DESIGN CHOICE (log entry 2), unsafe: `ie` after reset. -/
def ie : Bool := false

/-- DESIGN CHOICE (log entry 2), unsafe: `xct` after reset. -/
def xct : BitVec 32 := 0

end Sys2Proof.Machine.Launch
end

