-- ==== Sys2Proof/Machine/State.lean ====
section
/-! DEFINITION. The state of the machine as plain data, the reasons it can stop, and the state after reset. INVENTORY.md
lists every field under its rule. -/

namespace Sys2Proof.Machine

/-- The two operating modes (R20). -/
inductive Mode where
  | user | supervisor
deriving DecidableEq, Repr

/-- A data LAR (R25). Its address is one 32-bit field: `base = addr[31:7]`, `off = addr[6:0]` (R26). -/
structure Dlar where
  addr : Addr
  type : Ty
  data : Line
  dirty : Bool
  /-- Named by R25, read and written by no rule (R31, log entry 6). -/
  tag : BitVec 7
  /-- Named by R25, read and written by no rule (R31, log entry 6). -/
  refCount : BitVec 7
deriving DecidableEq, Repr

/-- An instruction LAR (R33). Its address is one 32-bit field, a multiple of 4. -/
structure Ilar where
  addr : Addr
  data : Line
  /-- Named by R33, read and written by no rule (R31, log entry 6). -/
  tag : BitVec 7
deriving DecidableEq, Repr

/-- An access to IO space, in the log of the accesses made (R81, R295). -/
inductive IoEvent where
  /-- `n` bytes were asked of the environment, from this IO address on. -/
  | read (addr : Addr) (n : Nat)
  /-- These bytes were handed to the environment, for this IO address and the ones after it. -/
  | write (addr : Addr) (bytes : List Byte)
deriving DecidableEq, Repr

/-- Main memory (R61): the bytes that are not what an unlisted address reads as, by strictly rising address. The canonical
form is `Memory.wf`; the operations are in Memory.lean. -/
abbrev Memory := List Host.Cell

/-- The state of the machine. `ilars` and `dlars` are indexed by physical number (R21); the zero registers `d0` and `i0`
are kept zero by the accessors of Registers.lean. -/
structure State where
  /-- The implementation's fixed parameters: written by no step. -/
  config : Config
  /-- R20 -/
  mode : Mode
  /-- `IL[0]` to `IL[127]` (R21, R33); `IL[63]` and `IL[127]` are the program counters `ipc` (R35). -/
  ilars : Vector Ilar 128
  /-- `DL[0]` to `DL[127]` (R21, R25). -/
  dlars : Vector Dlar 128
  /-- `iv[U]`: the user `ipc` holds the line its address names (R37). -/
  ivUser : Bool
  /-- `iv[S]`: the same for the supervisor `ipc` (R37). -/
  ivSupervisor : Bool
  /-- The 1-bit interrupt enable register (R40). -/
  ie : Bool
  /-- The exception type register (R41). -/
  xct : BitVec 32
  /-- The arguments of `swi` (R42). -/
  swiarg0 : Line
  swiarg1 : Line
  swiarg2 : Line
  swiarg3 : Line
  /-- Main memory (R44, R61). -/
  mem : Memory
  /-- The MODEL's own: the accesses made to IO space, oldest first (R295: "in program order"). -/
  ioLog : List IoEvent
  /-- The MODEL's own: the bytes the environment answers to the coming IO reads; where it ends the answer is a free value
  (log entry 4). -/
  ioScript : List Byte
  /-- The MODEL's own: the interrupt request in the coming steps; where it ends the request is a free value (log entry 3). -/
  irqScript : List Bool
  /-- The MODEL's own: the number of steps made, which picks the free value of the interrupt request. -/
  steps : Nat
deriving DecidableEq, Repr

/-- Why the machine stops in an error state that is no architectural exception (R10 `fault`). -/
inductive Fault where
  /-- Raised by the step function when the supervisor `ipc` names a line that no ILAR holds (R36 step 2, R37, D19, U12:
  parameter `SUPERVISOR_IMISS`, whose only value is `fault`). Safe: the hardware goes on in a way no source gives. -/
  | supervisorImiss
deriving DecidableEq, Repr

/-- Why the model gives a state no successor (R10 `refuse`). -/
inductive Refusal where
  /-- Raised by `exec` for an instruction that has no meaning in this model yet. Safe. -/
  | notModelled (mnemonic : String)
  /-- Raised by the step function for a word the decoder rejects: a literal-zero bit or an unused field is not zero (R105,
  D12, U6; `truncated` cannot arise in a step). Safe: no source says whether the hardware executes such a word. -/
  | rejectedWord (why : Rejection)
  /-- Raised by the vector forms of Group 0 and by Group 1 when a source's element size is not dA's (R120, R137, R150, D5,
  U7: parameter `VEC_MIXED_SIZE`, whose only value is `refuse`). Safe: no source says how the elements pair up. -/
  | vecMixedSize
  /-- Raised by `fetch` and Group 9 when a range or a stream of registers passes number 63 (R230, R256, R257, U8). Safe. -/
  | registerRange
  /-- Raised by `fetch` and `fetchm` when the destinations include the `ipc` of the running mode (R230, R262, U9). Safe. -/
  | fetchIntoIpc
  /-- Raised by `ldm` when a value of the type stream is above 7 (R261, U10). Safe. -/
  | ldmTypeCode
  /-- Raised by `ldm` when a destination register is also read by one of its streams (R261, U10). Safe. -/
  | ldmOverlap
deriving DecidableEq, Repr

/-- The outcome of an instruction or of a step. -/
abbrev Result := Host.Outcome State Fault Refusal

/-- All fields zero: `d0`, always (R32). -/
def zeroDlar : Dlar := { addr := 0, type := .u8, data := zeroLine, dirty := false, tag := 0, refCount := 0 }

/-- All fields zero: `i0`, always (R34). -/
def zeroIlar : Ilar := { addr := 0, data := zeroLine, tag := 0 }

/-- A DLAR that reset does not define (R46, D29; DESIGN CHOICE, log entry 2). -/
def launchDlar : Dlar := { zeroDlar with addr := Launch.larAddr }

/-- An ILAR that reset does not define (R46, D29; DESIGN CHOICE, log entry 2). -/
def launchIlar : Ilar := { zeroIlar with addr := Launch.larAddr }

/-- The machine right after reset (R46, R360): supervisor mode, the supervisor `ipc` at address 0 holding memory line 0
(nothing is listed in memory, so the line is zero: log entry 5), `iv[S] = 1`, `iv[U] = 0`, the zero registers zero.
Everything else is unspecified in the spec and takes the launch value of log entries 1 and 2. -/
def State.reset : State where
  config := { byteOrder := Launch.byteOrder, storeMode := Launch.storeMode }
  mode := .supervisor
  ilars := (((Vector.replicate 128 launchIlar).set 0 zeroIlar).set 64 zeroIlar).set 127 zeroIlar
  dlars := ((Vector.replicate 128 launchDlar).set 0 zeroDlar).set 64 zeroDlar
  ivUser := false
  ivSupervisor := true
  ie := Launch.ie
  xct := Launch.xct
  swiarg0 := zeroLine
  swiarg1 := zeroLine
  swiarg2 := zeroLine
  swiarg3 := zeroLine
  mem := []
  ioLog := []
  ioScript := []
  irqScript := []
  steps := 0

end Sys2Proof.Machine
end

