-- ==== Sys2Proof/Machine/Memory.lean ====
section
/-! DEFINITION. Main memory (R61): reading and writing bytes, byte strings and whole lines, and the canonical form. -/

namespace Sys2Proof.Machine

/-- The number of the line an address lies in, `addr[31:7]` (R26). -/
def lineOf (a : Addr) : LineNo := a.extractLsb' 7 25

/-- The place of an address in its line, `addr[6:0]` (R26). -/
def offsetOf (a : Addr) : Nat := a.toNat % 128

/-- The address of byte `j` of line `b` (R26). -/
def lineAddr (b : LineNo) (j : Nat) : Addr := BitVec.ofNat 32 (b.toNat * 128 + j)

/-- Byte `j` of a line, `data[j]` for `j` in 0 to 127 (R10, R25). -/
def byteAt (l : Line) (j : Nat) : Byte := if h : j < 128 then l[j] else 0

/-- What an address that is not listed reads as: DESIGN CHOICE, unsafe (log entry 5). -/
def unlistedByte : Byte := 0

/-- The byte stored at a numeric address. -/
def Memory.readAt : Memory → Nat → Byte
  | [], _ => unlistedByte
  | (k, v) :: m, a => if k = a then v else Memory.readAt m a

/-- The byte at an address (R61). -/
def Memory.read (m : Memory) (a : Addr) : Byte := m.readAt a.toNat

/-- The cells of one address: none when the value is what an unlisted address reads as. -/
def cellsOf (a : Nat) (v : Byte) : Memory := if v = unlistedByte then [] else [(a, v)]

/-- Memory with one byte stored at a numeric address, keeping the canonical form. -/
def Memory.writeAt : Memory → Nat → Byte → Memory
  | [], a, v => cellsOf a v
  | (k, u) :: m, a, v =>
    if k < a then (k, u) :: Memory.writeAt m a v
    else if k = a then cellsOf a v ++ m
    else cellsOf a v ++ (k, u) :: m

/-- Memory with one byte stored at an address (R61). -/
def Memory.write (m : Memory) (a : Addr) (v : Byte) : Memory := m.writeAt a.toNat v

/-- `MemWrite` (R61): memory with a byte string stored from an address on, addresses modulo 2^32. -/
def Memory.writeBytes (m : Memory) (a : Addr) : List Byte → Memory
  | [] => m
  | v :: vs => Memory.writeBytes (m.write a v) (a + 1) vs

/-- `MemLine` (R61): the 128 bytes of a line, in address order. -/
def Memory.line (m : Memory) (b : LineNo) : Line := tabulate fun j => m.read (lineAddr b j.val)

/-- `MemWriteLine` (R61). -/
def Memory.writeLine (m : Memory) (b : LineNo) (l : Line) : Memory := m.writeBytes (lineAddr b 0) l.toList

/-- The canonical form, above a lower bound for the addresses: strictly rising addresses below 2^32, no cell holding what
an unlisted address reads as. -/
def Memory.wfFrom : Nat → Memory → Bool
  | _, [] => true
  | lo, (k, v) :: m => decide (lo ≤ k) && decide (k < 2 ^ 32) && decide (v ≠ unlistedByte) && Memory.wfFrom (k + 1) m

/-- The canonical form of memory: equal memories are equal lists. -/
def Memory.wf (m : Memory) : Bool := Memory.wfFrom 0 m

end Sys2Proof.Machine
end

