-- ==== Sys2Proof/Machine/Operands.lean ====
section
/-! DEFINITION. Types, typed values and casts (R7, R8, R9), the elements of a line (R27, R28), and the operations of
Groups 0 and 1 on typed values (R122 to R137, R151 to R157). -/

namespace Sys2Proof

/-- `size(T)`, in bytes (R7, R29). -/
def Ty.size : Ty → Nat
  | .u8 | .s8 => 1
  | .u16 | .s16 => 2
  | .u32 | .s32 => 4
  | .u64 | .s64 => 8

/-- `w(T)`, in bits (R7). -/
def Ty.width (T : Ty) : Nat := 8 * T.size

/-- `signed(T)` (R7). -/
def Ty.signed : Ty → Bool
  | .u8 | .u16 | .u32 | .u64 => false
  | .s8 | .s16 | .s32 | .s64 => true

/-- `uns(T)`: "the unsigned type that is the same size" (R7). -/
def Ty.uns : Ty → Ty
  | .u8 | .s8 => .u8
  | .u16 | .s16 => .u16
  | .u32 | .s32 => .u32
  | .u64 | .s64 => .u64

/-- `tc(T)`: the 3-bit code of a type (R7, R29, D3). -/
def Ty.code : Ty → Nat
  | .u8 => 0 | .s8 => 1 | .u16 => 2 | .s16 => 3 | .u32 => 4 | .s32 => 5 | .u64 => 6 | .s64 => 7

/-- The type with a code, if there is one (R29, R261). -/
def Ty.ofCode : Nat → Option Ty
  | 0 => some .u8 | 1 => some .s8 | 2 => some .u16 | 3 => some .s16
  | 4 => some .u32 | 5 => some .s32 | 6 => some .u64 | 7 => some .s64
  | _ => none

/-- `n(T)`: the number of elements of a line (R7). -/
def Ty.lanes (T : Ty) : Nat := 128 / T.size

/-- The types for which some instructions are not defined (R121). -/
def Ty.is64 : Ty → Bool
  | .u64 | .s64 => true
  | .u8 | .s8 | .u16 | .s16 | .u32 | .s32 => false

namespace Machine

/-- A typed value `(T, b)` (R8). The pattern `b` of `w(T)` bits stands in the low bits of 64; the bits above are zero in
every value the machine makes. -/
structure TVal where
  ty : Ty
  bits : BitVec 64
deriving DecidableEq, Repr

/-- `val(T, b)`: the integer a typed value denotes (R8). -/
def TVal.val (v : TVal) : Int :=
  if v.ty.signed then (v.bits.setWidth v.ty.width).toInt else (v.bits.setWidth v.ty.width).toNat

/-- `(T, x mod 2^w(T))` (R8). -/
def TVal.ofInt (T : Ty) (x : Int) : TVal := { ty := T, bits := (BitVec.ofInt T.width x).setWidth 64 }

/-- `cast(T, v)` (R8, D2). -/
def cast (T : Ty) (v : TVal) : TVal := TVal.ofInt T v.val

/-- A value as a 32-bit address or register value: `cast(u32, v)` (R8). -/
def TVal.toU32 (v : TVal) : BitVec 32 := (cast .u32 v).bits.setWidth 32

/-- A 32-bit value as a typed value of type u32 (R133, R257). -/
def TVal.ofU32 (a : BitVec 32) : TVal := { ty := .u32, bits := a.setWidth 64 }

/-- `align(T, a)`: the address with its low `log2(size(T))` bits cleared (R9, D30). -/
def align (T : Ty) (a : Addr) : Addr := a &&& ~~~(BitVec.ofNat 32 (T.size - 1))

/-- The bytes of a typed value in address order (R60). -/
def TVal.bytes (order : ByteOrder) (v : TVal) : List Byte := natToBytes order v.ty.size v.bits.toNat

/-- The typed value that bytes in address order make (R60). -/
def TVal.ofBytes (order : ByteOrder) (T : Ty) (bs : List Byte) : TVal :=
  { ty := T, bits := BitVec.ofNat 64 (bytesToNat order bs) }

/-! ### Lines -/

/-- Bytes `p` to `p + n - 1` of a line. -/
def slice (l : Line) (p n : Nat) : List Byte := (List.range n).map fun i => byteAt l (p + i)

/-- The line with a byte string written from byte `p` on (R66). -/
def patch (l : Line) (p : Nat) (bs : List Byte) : Line :=
  tabulate fun j => if p ≤ j.val ∧ j.val < p + bs.length then bs.getD (j.val - p) 0 else l[j]

/-- `elem(D, T, k)`: element `k` of a line read at type `T` (R10, R28). -/
def elem (order : ByteOrder) (l : Line) (T : Ty) (k : Nat) : TVal :=
  TVal.ofBytes order T (slice l (k * T.size) T.size)

/-- The line whose element `k`, at type `T`, is `f k` (R28). -/
def lineOfElems (order : ByteOrder) (T : Ty) (f : Nat → TVal) : Line :=
  tabulate fun j => ((f (j.val / T.size)).bytes order).getD (j.val % T.size) 0

/-- The number of the element that a scalar offset selects, at type `T` (R27). -/
def scalarIndex (T : Ty) (a : Addr) : Nat := offsetOf a / T.size

/-! ### Operations on values of one type -/

/-- `add` (R122). -/
def TVal.add (x y : TVal) : TVal := TVal.ofInt x.ty (x.val + y.val)

/-- `sub` (R123). -/
def TVal.sub (x y : TVal) : TVal := TVal.ofInt x.ty (x.val - y.val)

/-- `slt` (R124). -/
def TVal.slt (x y : TVal) : TVal := TVal.ofInt x.ty (if x.val < y.val then 1 else 0)

/-- `mul` (R125). -/
def TVal.mul (x y : TVal) : TVal := TVal.ofInt x.ty (x.val * y.val)

/-- `and` (R126). -/
def TVal.and (x y : TVal) : TVal := { ty := x.ty, bits := x.bits &&& y.bits }

/-- `or` (R127). -/
def TVal.or (x y : TVal) : TVal := { ty := x.ty, bits := x.bits ||| y.bits }

/-- `xor` (R128). -/
def TVal.xor (x y : TVal) : TVal := { ty := x.ty, bits := x.bits ^^^ y.bits }

/-- The count of a shift or a rotation: the operand cast to the unsigned type of its size, read as a number (R129). -/
def shiftCount (y : TVal) : Nat := (cast y.ty.uns y).val.toNat

/-- `shl` (R129, D8): mathematical, so 0 for a count of the width or more. -/
def TVal.shl (x y : TVal) : TVal :=
  if x.ty.width ≤ shiftCount y then TVal.ofInt x.ty 0 else TVal.ofInt x.ty (x.val * 2 ^ shiftCount y)

/-- `shr` (R130, D8): the quotient by `2^n` rounded down, so 0 or -1 for a count of the width or more. -/
def TVal.shr (x y : TVal) : TVal :=
  if x.ty.width ≤ shiftCount y then TVal.ofInt x.ty (if x.val < 0 then -1 else 0)
  else TVal.ofInt x.ty (x.val / 2 ^ shiftCount y)

/-- `rol` (R131). -/
def TVal.rol (x y : TVal) : TVal :=
  let b := x.bits.setWidth x.ty.width
  let r := shiftCount y % x.ty.width
  { ty := x.ty, bits := ((b <<< r) ||| (b >>> (x.ty.width - r))).setWidth 64 }

/-- `ror` (R132). -/
def TVal.ror (x y : TVal) : TVal :=
  let b := x.bits.setWidth x.ty.width
  let r := shiftCount y % x.ty.width
  { ty := x.ty, bits := ((b >>> r) ||| (b <<< (x.ty.width - r))).setWidth 64 }

/-- The quotient of `div`, rounded toward zero (R136, D7). -/
def TVal.quot (x y : TVal) : TVal := TVal.ofInt x.ty (x.val.tdiv y.val)

/-- The remainder of `div`, with the sign of the dividend (R136, D7). -/
def TVal.rem (x y : TVal) : TVal := TVal.ofInt x.ty (x.val - x.val.tdiv y.val * y.val)

/-- The greater of two values (R153). -/
def TVal.max (x y : TVal) : TVal := if x.val < y.val then y else x

/-- The lesser of two values (R154). -/
def TVal.min (x y : TVal) : TVal := if y.val < x.val then y else x

/-- `e_0 (+) e_1 (+) ... (+) e_{n-1}` (R150). -/
def reduce (op : TVal → TVal → TVal) (e : Nat → TVal) (n : Nat) : TVal :=
  (List.range (n - 1)).foldl (fun r k => op r (e (k + 1))) (e 0)

end Machine

end Sys2Proof
end

