-- ==== Sys2Proof/Machine/Registers.lean ====
section
/-! DEFINITION. The one way to the registers: physical numbers (R21, R22), the zero registers (R32, R34), reading a
register, and writing one field of the register files. -/

namespace Sys2Proof.Machine

/-- The physical number of the LAR that an operand field names in the bank of a mode (R21, R22). -/
def bankReg : Mode → Fin 64 → PhysReg
  | .user, n => ⟨n.val, by omega⟩
  | .supervisor, n => ⟨64 + n.val, by omega⟩

/-- `d0` and `i0` of either bank: all fields zero, writes discarded (R32, R34). -/
def isZeroReg (k : PhysReg) : Bool := k.val == 0 || k.val == 64

/-- The program counter of a mode: `IL[63]` or `IL[127]` (R35). -/
def ipcOf : Mode → PhysReg
  | .user => 63
  | .supervisor => 127

/-- `DL[k]` (R21), `d0` reading as zero (R32). -/
def State.dlar (s : State) (k : PhysReg) : Dlar := if isZeroReg k then zeroDlar else s.dlars[k]

/-- `IL[k]` (R21), `i0` reading as zero (R34). -/
def State.ilar (s : State) (k : PhysReg) : Ilar := if isZeroReg k then zeroIlar else s.ilars[k]

/-- `DL[k] <- D`; a write to a `d0` changes nothing (R32). -/
def State.setDlar (s : State) (k : PhysReg) (D : Dlar) : State :=
  if isZeroReg k then s else { s with dlars := s.dlars.set k D }

/-- `IL[k] <- I`; a write to an `i0` changes nothing (R34). -/
def State.setIlar (s : State) (k : PhysReg) (I : Ilar) : State :=
  if isZeroReg k then s else { s with ilars := s.ilars.set k I }

/-- The physical number of `d[n]` or `i[n]`, in the bank of the running mode (R10, R22). -/
def State.reg (s : State) (n : Fin 64) : PhysReg := bankReg s.mode n

/-- `d[n]` (R10). -/
def State.d (s : State) (n : DReg) : Dlar := s.dlar (s.reg n)

/-- `i[n]` (R10). -/
def State.i (s : State) (n : IReg) : Ilar := s.ilar (s.reg n)

/-- The `ipc` of the running mode (R35, R36). -/
def State.ipc (s : State) : Ilar := s.ilar (ipcOf s.mode)

/-- `pc`: the address of the instruction being executed (R10, R35). -/
def State.pc (s : State) : Addr := s.ipc.addr

/-- The type of `d[n]`. -/
def State.typeOf (s : State) (n : DReg) : Ty := (s.d n).type

/-- The element of a DLAR that its scalar offset selects, read at type `T` (R27). -/
def State.scalarAt (s : State) (D : Dlar) (T : Ty) : TVal := elem s.config.byteOrder D.data T (scalarIndex T D.addr)

/-- `d[n].scalar`: the scalar data, at the register's own type (R10, R27). -/
def State.scalar (s : State) (n : DReg) : TVal := s.scalarAt (s.d n) (s.typeOf n)

/-- Element `k` of the vector data of `d[n]`, at the register's own type (R28). -/
def State.lane (s : State) (n : DReg) (k : Nat) : TVal := elem s.config.byteOrder (s.d n).data (s.typeOf n) k

/-- `iv[m]` (R37). -/
def State.iv (s : State) : Mode → Bool
  | .user => s.ivUser
  | .supervisor => s.ivSupervisor

/-- `iv[m] <- b` (R37). -/
def State.setIv (s : State) (m : Mode) (b : Bool) : State :=
  match m with
  | .user => { s with ivUser := b }
  | .supervisor => { s with ivSupervisor := b }

/-- `d[n].type <- T`: only the tag changes, the bytes stay (R28, D37). -/
def State.setType (s : State) (n : DReg) (T : Ty) : State := s.setDlar (s.reg n) { s.d n with type := T }

end Sys2Proof.Machine
end

