-- ==== Sys2Proof/Machine/Ops.lean ====
section
/-! DEFINITION. The shared operations: line sharing among DLARs and their memory accesses (R65 to R71), ILAR lines (R72 to
R74), sequencing (R36), taking an exception and returning from one (R330, R247), and IO space (R295). -/

namespace Sys2Proof.Machine

/-! ### Lines held by DLARs -/

/-- DLAR `k` is no `d0` and its address lies in line `b` (R65). -/
def State.holds (s : State) (b : LineNo) (k : PhysReg) : Bool := !isZeroReg k && lineOf (s.dlars[k]).addr == b

/-- The lowest-numbered holder of a line. -/
def State.holder (s : State) (b : LineNo) : Option PhysReg := (List.finRange 128).find? (s.holds b)

/-- The lowest-numbered holder of a line other than DLAR `k` (R67). -/
def State.otherHolder (s : State) (k : PhysReg) (b : LineNo) : Option PhysReg :=
  (List.finRange 128).find? fun x => s.holds b x && x != k

/-- A change made to every DLAR that holds a line, in either bank (R65, R66). -/
def State.mapHolders (s : State) (b : LineNo) (f : Dlar → Dlar) : State :=
  { s with dlars := tabulate fun k => if s.holds b k then f s.dlars[k] else s.dlars[k] }

/-- Bytes written into a held line: every holder sees them and becomes dirty (R66). -/
def State.writeHeld (s : State) (b : LineNo) (p : Nat) (bs : List Byte) : State :=
  s.mapHolders b fun X => { X with data := patch X.data p bs, dirty := true }

/-- `WriteBytes(D, p, bytes)` (R66); a write to a `d0` does nothing. -/
def State.writeBytes (s : State) (k : PhysReg) (p : Nat) (bs : List Byte) : State :=
  if isZeroReg k then s else s.writeHeld (lineOf (s.dlar k).addr) p bs

/-- `WriteElem(D, T, e, v)` with `v` of type `T` (R66). -/
def State.writeElem (s : State) (k : PhysReg) (e : Nat) (v : TVal) : State :=
  s.writeBytes k (e * v.ty.size) (v.bytes s.config.byteOrder)

/-- `WriteScalar(d[n], v)` with `v` of the register's type (R27, R66). -/
def State.writeScalar (s : State) (n : DReg) (v : TVal) : State :=
  s.writeElem (s.reg n) (scalarIndex v.ty (s.d n).addr) v

/-- `WriteVector(d[n], bytes)` (R66). -/
def State.writeVector (s : State) (n : DReg) (l : Line) : State := s.writeBytes (s.reg n) 0 l.toList

/-- `DRelease(D)`: the last holder of a dirty line writes it back (R68, D14). -/
def State.release (s : State) (k : PhysReg) : State :=
  if (s.dlar k).dirty && (s.otherHolder k (lineOf (s.dlar k).addr)).isNone then
    { s with mem := s.mem.writeLine (lineOf (s.dlar k).addr) (s.dlar k).data }
  else s

/-- The data and the dirty flag a DLAR gets with a line it does not hold yet: those of another holder, else the line from
memory, clean (R67). -/
def State.obtain (s : State) (k : PhysReg) (b : LineNo) : Line × Bool :=
  match s.otherHolder k b with
  | some x => ((s.dlar x).data, (s.dlar x).dirty)
  | none => (s.mem.line b, false)

/-- `DLoad(D, EA, T)` (R67, R165). -/
def State.dload (s : State) (k : PhysReg) (ea : Addr) (T : Ty) : State :=
  if isZeroReg k then s
  else if lineOf (s.dlar k).addr = lineOf ea then s.setDlar k { s.dlar k with addr := ea, type := T }
  else
    let r := s.release k
    let got := r.obtain k (lineOf ea)
    r.setDlar k { s.dlar k with addr := ea, type := T, data := got.1, dirty := got.2 }

/-- `DataWrite(EA, n, v)`: into the line if a DLAR holds it, else into memory (R69). -/
def State.dataWrite (s : State) (ea : Addr) (v : TVal) : State :=
  if (s.holder (lineOf ea)).isSome then s.writeHeld (lineOf ea) (offsetOf ea) (v.bytes s.config.byteOrder)
  else { s with mem := s.mem.writeBytes ea (v.bytes s.config.byteOrder) }

/-- `line_retag` (U5): DLAR `k` is associated with the line of `ea`, letting go of its own as before a load (R67, R68), and
keeps its data, which is from then on the dirty data of that line, as every holder sees it (R65, R66; log entry 24). -/
def State.retag (s : State) (k : PhysReg) (ea : Addr) (T : Ty) : State :=
  (s.dload k ea T).writeBytes k 0 (s.dlar k).data.toList

/-- `DFlush(D)` (R70). -/
def State.dflush (s : State) (k : PhysReg) : State :=
  if isZeroReg k then s
  else
    { s with mem := s.mem.writeLine (lineOf (s.dlar k).addr) (s.dlar k).data }.mapHolders (lineOf (s.dlar k).addr)
      fun X => { X with dirty := false }

/-- `DReload(D)` (R71). -/
def State.dreload (s : State) (k : PhysReg) : State :=
  if isZeroReg k then s
  else s.mapHolders (lineOf (s.dlar k).addr)
    fun X => { X with data := s.mem.line (lineOf (s.dlar k).addr), dirty := false }

/-! ### Lines held by ILARs -/

/-- An `ipc` whose `iv` bit is 0 does not hold the line its address names (R37, R72). -/
def State.lineValid (s : State) (k : PhysReg) : Bool :=
  (k != ipcOf .user || s.ivUser) && (k != ipcOf .supervisor || s.ivSupervisor)

/-- `ILookup(b, excl)`: the data of the lowest-numbered other ILAR that holds the line (R72). -/
def State.ilookup (s : State) (b : LineNo) (excl : PhysReg) : Option Line :=
  ((List.finRange 128).find? fun k =>
    !isZeroReg k && k != excl && s.lineValid k && lineOf (s.ilars[k]).addr == b).map fun k => (s.ilars[k]).data

/-- The line an ILAR is filled with: from another ILAR that holds it, else from memory (R73). -/
def State.instrLine (s : State) (b : LineNo) (excl : PhysReg) : Line := (s.ilookup b excl).getD (s.mem.line b)

/-- `iv` becomes 1 when the ILAR just filled is the `ipc` of a mode (R73, R265). -/
def State.validate (s : State) (k : PhysReg) : State :=
  if k = ipcOf .user then s.setIv .user true
  else if k = ipcOf .supervisor then s.setIv .supervisor true
  else s

/-- An instruction address: the low two bits cleared (R33, R73). -/
def instrAddr (a : Addr) : Addr := a &&& ~~~3

/-- `IFill(I, A)` (R73). -/
def State.ifill (s : State) (k : PhysReg) (a : Addr) : State :=
  if isZeroReg k then s
  else (s.setIlar k { s.ilar k with addr := instrAddr a, data := s.instrLine (lineOf (instrAddr a)) k }).validate k

/-- `IReload(I)` (R74, R265). -/
def State.ireload (s : State) (k : PhysReg) : State :=
  if isZeroReg k then s
  else (s.setIlar k { s.ilar k with data := s.mem.line (lineOf (s.ilar k).addr) }).validate k

/-! ### Sequencing -/

/-- Case (a) of R36: the next instruction in sequence; a new line is yet to be found. -/
def State.advance (s : State) : State :=
  let next := s.pc + 4
  let s' := s.setIlar (ipcOf s.mode) { s.ipc with addr := next }
  if lineOf next = lineOf s.pc then s' else s'.setIv s.mode false

/-- Case (b) of R36, the jump of R246: `ipc` becomes a copy of the line of ILAR `i[b]`, at instruction `index`. -/
def State.jump (s : State) (b : IReg) (index : Nat) : State :=
  (s.setIlar (ipcOf s.mode)
    { s.ipc with addr := lineAddr (lineOf (s.i b).addr) (4 * index), data := (s.i b).data }).setIv s.mode true

/-! ### Exceptions -/

/-- `Enter(c)`, steps 2 to 6 of R330: the one way into supervisor mode. Nothing is saved. -/
def State.enter (s : State) (c : BitVec 32) : State :=
  let t := { s with xct := c, ie := if c = 0 then false else s.ie, mode := .supervisor }
  (t.setIlar (ipcOf .supervisor)
    { t.ilar (ipcOf .supervisor) with addr := 0, data := t.instrLine 0 (ipcOf .supervisor) }).setIv .supervisor true

/-- Case (c) of R36: an instruction raises exception `c`. In user mode the user `ipc` is left at the following instruction
(R330 step 1, D20). -/
def State.raise (s : State) (c : BitVec 32) : State :=
  match s.mode with
  | .user => s.advance.enter c
  | .supervisor => s.enter c

/-- The return to user mode (R247): nothing else changes. -/
def State.returnToUser (s : State) : State := { s with mode := .user }

/-! ### IO space -/

/-- Byte `j` of the environment's answer to an IO read (R81, R295): from the script, else a free value. -/
def State.ioByte (s : State) (a : Addr) (j : Nat) : Byte :=
  s.ioScript.getD j (Config.ioByteAt s.ioLog.length (a + BitVec.ofNat 32 j))

/-- The bytes `IORead(a, n)` answers (R295). -/
def State.ioAnswer (s : State) (a : Addr) (n : Nat) : List Byte := (List.range n).map (s.ioByte a)

/-- The state after `IORead(a, n)`: the access is made, its answer used up (R295). -/
def State.ioRead (s : State) (a : Addr) (n : Nat) : State :=
  { s with ioLog := s.ioLog ++ [.read a n], ioScript := s.ioScript.drop n }

/-- `IOWrite(a, n, bytes)`: an output event (R295). -/
def State.ioWrite (s : State) (a : Addr) (bs : List Byte) : State := { s with ioLog := s.ioLog ++ [.write a bs] }

/-! ### How an instruction ends -/

/-- The instruction falls through (R36 case (a)). -/
def fallThrough (s : State) : Result := .next s.advance

/-- The instruction raises exception 0x3 if one of the types is 64-bit (R121). -/
def unless64 (types : List Ty) (s : State) (rest : Result) : Result :=
  if types.any Ty.is64 then .next (s.raise 0x3) else rest

/-- The instruction raises exception `c` in user mode (R244, R245, R275). -/
def supervisorOnly (c : BitVec 32) (s : State) (rest : Result) : Result :=
  match s.mode with
  | .user => .next (s.raise c)
  | .supervisor => rest

/-- The instruction raises exception `c` in user mode if it names the supervisor's bank (R255). -/
def bankAllowed (c : BitVec 32) (bank : Mode) (s : State) (rest : Result) : Result :=
  match s.mode, bank with
  | .user, .supervisor => .next (s.raise c)
  | _, _ => rest

end Sys2Proof.Machine
end

