-- ==== Sys2Proof/Machine/Alu.lean ====
section
/-! DEFINITION. Group 0: arithmetic, logic, shifts and division (R120 to R139). -/

namespace Sys2Proof.Machine

/-- The scalar form of Group 0 (R120): dA's scalar becomes `op x y`, with `x` and dC's scalar cast to dA's type. -/
def scalarOp (op : TVal → TVal → TVal) (a : DReg) (x : TVal) (c : DReg) (s : State) : Result :=
  fallThrough (s.writeScalar a (op (cast (s.typeOf a) x) (cast (s.typeOf a) (s.scalar c))))

/-- The model refuses a vector form whose sources' elements do not have the size of dA's (R120, R150, U7). -/
def sameSize (sources : List Ty) (T : Ty) (rest : Result) : Result :=
  if sources.all fun X => X.size == T.size then rest else .refused .vecMixedSize

/-- The vector form of Group 0 (R120, R139): element `k` of dA becomes `op (x k) y_k`, with `x k` and element `k` of dC
cast to dA's type. -/
def vectorOp (op : TVal → TVal → TVal) (a : DReg) (x : Nat → TVal) (c : DReg) (s : State) : Result :=
  fallThrough (s.writeVector a (lineOfElems s.config.byteOrder (s.typeOf a) fun k =>
    op (cast (s.typeOf a) (x k)) (cast (s.typeOf a) (s.lane c k))))

/-- The operand `dB.addr`: the address, aligned to dB's type, as a u32 (R133, R134). -/
def dlarAddress (s : State) (b : DReg) : TVal := TVal.ofU32 (align (s.typeOf b) (s.d b).addr)

/-- The operand `iB.addr`: the address, aligned to u32, as a u32 (R135). -/
def ilarAddress (s : State) (b : IReg) : TVal := TVal.ofU32 (align .u32 (s.i b).addr)

/-- `add.s dA, dB, dC` (R122). -/
def execAddS (a b c : DReg) (s : State) : Result :=
  scalarOp TVal.add a (s.scalar b) c s

/-- `add.v dA, dB, dC` (R122). -/
def execAddV (a b c : DReg) (s : State) : Result :=
  sameSize [s.typeOf b, s.typeOf c] (s.typeOf a) <| vectorOp TVal.add a (s.lane b) c s

/-- `sub.s dA, dB, dC` (R123). -/
def execSubS (a b c : DReg) (s : State) : Result :=
  scalarOp TVal.sub a (s.scalar b) c s

/-- `sub.v dA, dB, dC` (R123). -/
def execSubV (a b c : DReg) (s : State) : Result :=
  sameSize [s.typeOf b, s.typeOf c] (s.typeOf a) <| vectorOp TVal.sub a (s.lane b) c s

/-- `slt.s dA, dB, dC` (R124). -/
def execSltS (a b c : DReg) (s : State) : Result :=
  scalarOp TVal.slt a (s.scalar b) c s

/-- `slt.v dA, dB, dC` (R124). -/
def execSltV (a b c : DReg) (s : State) : Result :=
  sameSize [s.typeOf b, s.typeOf c] (s.typeOf a) <| vectorOp TVal.slt a (s.lane b) c s

/-- `mul.s dA, dB, dC` (R125): exception 0x3 for 64-bit types. -/
def execMulS (a b c : DReg) (s : State) : Result :=
  unless64 [s.typeOf b, s.typeOf c] s <| scalarOp TVal.mul a (s.scalar b) c s

/-- `mul.v dA, dB, dC` (R125): exception 0x3 for 64-bit types. -/
def execMulV (a b c : DReg) (s : State) : Result :=
  unless64 [s.typeOf b, s.typeOf c] s <|
    sameSize [s.typeOf b, s.typeOf c] (s.typeOf a) <| vectorOp TVal.mul a (s.lane b) c s

/-- `and.s dA, dB, dC` (R126). -/
def execAndS (a b c : DReg) (s : State) : Result :=
  scalarOp TVal.and a (s.scalar b) c s

/-- `and.v dA, dB, dC` (R126). -/
def execAndV (a b c : DReg) (s : State) : Result :=
  sameSize [s.typeOf b, s.typeOf c] (s.typeOf a) <| vectorOp TVal.and a (s.lane b) c s

/-- `or.s dA, dB, dC` (R127). -/
def execOrS (a b c : DReg) (s : State) : Result :=
  scalarOp TVal.or a (s.scalar b) c s

/-- `or.v dA, dB, dC` (R127). -/
def execOrV (a b c : DReg) (s : State) : Result :=
  sameSize [s.typeOf b, s.typeOf c] (s.typeOf a) <| vectorOp TVal.or a (s.lane b) c s

/-- `xor.s dA, dB, dC` (R128). -/
def execXorS (a b c : DReg) (s : State) : Result :=
  scalarOp TVal.xor a (s.scalar b) c s

/-- `xor.v dA, dB, dC` (R128). -/
def execXorV (a b c : DReg) (s : State) : Result :=
  sameSize [s.typeOf b, s.typeOf c] (s.typeOf a) <| vectorOp TVal.xor a (s.lane b) c s

/-- `shl.s dA, dB, dC` (R129): exception 0x3 for 64-bit types. -/
def execShlS (a b c : DReg) (s : State) : Result :=
  unless64 [s.typeOf a, s.typeOf b, s.typeOf c] s <| scalarOp TVal.shl a (s.scalar b) c s

/-- `shl.v dA, dB, dC` (R129): exception 0x3 for 64-bit types. -/
def execShlV (a b c : DReg) (s : State) : Result :=
  unless64 [s.typeOf a, s.typeOf b, s.typeOf c] s <|
    sameSize [s.typeOf b, s.typeOf c] (s.typeOf a) <| vectorOp TVal.shl a (s.lane b) c s

/-- `shr.s dA, dB, dC` (R130): exception 0x3 for 64-bit types. -/
def execShrS (a b c : DReg) (s : State) : Result :=
  unless64 [s.typeOf a, s.typeOf b, s.typeOf c] s <| scalarOp TVal.shr a (s.scalar b) c s

/-- `shr.v dA, dB, dC` (R130): exception 0x3 for 64-bit types. -/
def execShrV (a b c : DReg) (s : State) : Result :=
  unless64 [s.typeOf a, s.typeOf b, s.typeOf c] s <|
    sameSize [s.typeOf b, s.typeOf c] (s.typeOf a) <| vectorOp TVal.shr a (s.lane b) c s

/-- `rol.s dA, dB, dC` (R131): exception 0x3 for 64-bit types. -/
def execRolS (a b c : DReg) (s : State) : Result :=
  unless64 [s.typeOf a, s.typeOf b, s.typeOf c] s <| scalarOp TVal.rol a (s.scalar b) c s

/-- `rol.v dA, dB, dC` (R131): exception 0x3 for 64-bit types. -/
def execRolV (a b c : DReg) (s : State) : Result :=
  unless64 [s.typeOf a, s.typeOf b, s.typeOf c] s <|
    sameSize [s.typeOf b, s.typeOf c] (s.typeOf a) <| vectorOp TVal.rol a (s.lane b) c s

/-- `ror.s dA, dB, dC` (R132): exception 0x3 for 64-bit types. -/
def execRorS (a b c : DReg) (s : State) : Result :=
  unless64 [s.typeOf a, s.typeOf b, s.typeOf c] s <| scalarOp TVal.ror a (s.scalar b) c s

/-- `ror.v dA, dB, dC` (R132): exception 0x3 for 64-bit types. -/
def execRorV (a b c : DReg) (s : State) : Result :=
  unless64 [s.typeOf a, s.typeOf b, s.typeOf c] s <|
    sameSize [s.typeOf b, s.typeOf c] (s.typeOf a) <| vectorOp TVal.ror a (s.lane b) c s

/-- `add.s dA, dB.addr, dC` (R133): exception 0x3 for 64-bit types. -/
def execAddAddrS (a b c : DReg) (s : State) : Result :=
  unless64 [s.typeOf a, s.typeOf c] s <| scalarOp TVal.add a (dlarAddress s b) c s

/-- `add.v dA, dB.addr, dC` (R133): exception 0x3 for 64-bit types; dB's data is not read. -/
def execAddAddrV (a b c : DReg) (s : State) : Result :=
  unless64 [s.typeOf a, s.typeOf c] s <|
    sameSize [s.typeOf c] (s.typeOf a) <| vectorOp TVal.add a (fun _ => dlarAddress s b) c s

/-- `shl.s dA, dB.addr, dC` (R134): exception 0x3 for 64-bit types. -/
def execShlAddrS (a b c : DReg) (s : State) : Result :=
  unless64 [s.typeOf a, s.typeOf c] s <| scalarOp TVal.shl a (dlarAddress s b) c s

/-- `shl.v dA, dB.addr, dC` (R134): exception 0x3 for 64-bit types; dB's data is not read. -/
def execShlAddrV (a b c : DReg) (s : State) : Result :=
  unless64 [s.typeOf a, s.typeOf c] s <|
    sameSize [s.typeOf c] (s.typeOf a) <| vectorOp TVal.shl a (fun _ => dlarAddress s b) c s

/-- `add.s dA, iB.addr, dC` (R135). -/
def execAddIaddrS (a : DReg) (b : IReg) (c : DReg) (s : State) : Result :=
  scalarOp TVal.add a (ilarAddress s b) c s

/-- `add.v dA, iB.addr, dC` (R135). -/
def execAddIaddrV (a : DReg) (b : IReg) (c : DReg) (s : State) : Result :=
  sameSize [s.typeOf c] (s.typeOf a) <| vectorOp TVal.add a (fun _ => ilarAddress s b) c s

/-- `div.s dA, dB, dC, dD` (R136): exception 0x3 if dC is 64-bit, then 0x1 if the cast
divisor is zero; the quotient is written first, the remainder second. -/
def execDivS (a b c d : DReg) (s : State) : Result :=
  unless64 [s.typeOf c] s <|
    let x := cast (s.typeOf a) (s.scalar b)
    let y := cast (s.typeOf a) (s.scalar c)
    if y.val = 0 then .next (s.raise 0x1)
    else fallThrough ((s.writeScalar a (x.quot y)).writeScalar d (cast (s.typeOf d) (x.rem y)))

/-- Some lane of the divisor is zero (R137). -/
def someLaneZero (T : Ty) (y : Nat → TVal) : Bool := (List.range T.lanes).any fun k => (y k).val == 0

/-- `div.v dA, dB, dC, dD` (R137): exceptions as `div.s`, for any lane; all quotients are written
first, then all remainders. -/
def execDivV (a b c d : DReg) (s : State) : Result :=
  unless64 [s.typeOf c] s <| sameSize [s.typeOf b, s.typeOf c, s.typeOf d] (s.typeOf a) <|
    let T := s.typeOf a
    let x := fun k => cast T (s.lane b k)
    let y := fun k => cast T (s.lane c k)
    let line := fun (op : TVal → TVal → TVal) => lineOfElems s.config.byteOrder T fun k => op (x k) (y k)
    if someLaneZero T y then .next (s.raise 0x1)
    else fallThrough ((s.writeVector a (line TVal.quot)).writeVector d (line TVal.rem))

end Sys2Proof.Machine
end

