-- ==== Sys2Proof/Machine/Flags.lean ====
section
/-! DEFINITION. This machine has no status flags (R43). What stands in their place is the condition the instructions of
Group 8 compute from a DLAR's data (R240). -/

namespace Sys2Proof.Machine

/-- The condition of a `.s` instruction: the scalar data of `d[a]` is not zero (R240). -/
def nonZeroScalar (s : State) (a : DReg) : Bool := (s.scalar a).val != 0

/-- The condition of a `.v` instruction: some byte of the data of `d[a]` is not zero (R240, D38). -/
def nonZeroVector (s : State) (a : DReg) : Bool := (s.d a).data.toList.any fun b => b != 0

end Sys2Proof.Machine
end

