-- ==== Sys2Proof/Machine/Control.lean ====
section
/-! DEFINITION. Group 8: jumps and returns to user mode (R240 to R248). -/

namespace Sys2Proof.Machine

/-- The condition of a `reti` or `retx`: return to user mode from a changed state, or fall through (R244, R245, R247). -/
def returnIf (cond : Bool) (s returning : State) : Result :=
  if cond then .next returning.returnToUser else fallThrough s

/-- `sel.s dA, iB, iimm5, jimm5` (R241). -/
def execSelS (a : DReg) (b : IReg) (i j : Nat) (s : State) : Result :=
  .next (s.jump b (if nonZeroScalar s a then i else j))

/-- `jz.s dA, iB, iimm5` (R242). -/
def execJzS (a : DReg) (b : IReg) (i : Nat) (s : State) : Result :=
  if nonZeroScalar s a then fallThrough s else .next (s.jump b i)

/-- `jnz.s dA, iB, iimm5` (R243). -/
def execJnzS (a : DReg) (b : IReg) (i : Nat) (s : State) : Result :=
  if nonZeroScalar s a then .next (s.jump b i) else fallThrough s

/-- `reti.s dA` (R244): exception 0x5 in user mode; `ie` is set only by a return. -/
def execRetiS (a : DReg) (s : State) : Result :=
  supervisorOnly 0x5 s <| returnIf (nonZeroScalar s a) s { s with ie := true }

/-- `retx.s dA` (R245): exception 0x6 in user mode. -/
def execRetxS (a : DReg) (s : State) : Result :=
  supervisorOnly 0x6 s <| returnIf (nonZeroScalar s a) s s

/-- `sel.v dA, iB, iimm5, jimm5` (R241). -/
def execSelV (a : DReg) (b : IReg) (i j : Nat) (s : State) : Result :=
  .next (s.jump b (if nonZeroVector s a then i else j))

/-- `jz.v dA, iB, iimm5` (R242). -/
def execJzV (a : DReg) (b : IReg) (i : Nat) (s : State) : Result :=
  if nonZeroVector s a then fallThrough s else .next (s.jump b i)

/-- `jnz.v dA, iB, iimm5` (R243). -/
def execJnzV (a : DReg) (b : IReg) (i : Nat) (s : State) : Result :=
  if nonZeroVector s a then .next (s.jump b i) else fallThrough s

/-- `reti.v dA` (R244): exception 0x5 in user mode; `ie` is set only by a return. -/
def execRetiV (a : DReg) (s : State) : Result :=
  supervisorOnly 0x5 s <| returnIf (nonZeroVector s a) s { s with ie := true }

/-- `retx.v dA` (R245): exception 0x6 in user mode. -/
def execRetxV (a : DReg) (s : State) : Result :=
  supervisorOnly 0x6 s <| returnIf (nonZeroVector s a) s s

end Sys2Proof.Machine
end

