-- ==== Sys2Proof/Machine/CpySwi.lean ====
section
/-! DEFINITION. Group 10: the control registers and the software interrupt (R275 to R288). -/

namespace Sys2Proof.Machine

/-- `cpy.s dA, ie` (R276): exception 0x7 in user mode. -/
def execCpyFromIe (a : DReg) (s : State) : Result :=
  supervisorOnly 0x7 s <|
    fallThrough (s.writeScalar a (cast (s.typeOf a) { ty := .u8, bits := if s.ie then 1 else 0 }))

/-- `cpy.s ie, dA` (R277): exception 0x8 in user mode; bit 0 is kept. -/
def execCpyToIe (a : DReg) (s : State) : Result :=
  supervisorOnly 0x8 s <| fallThrough { s with ie := (s.scalar a).bits.getLsbD 0 }

/-- `cpy.s dA, xct` (R278): exception 0x9 in user mode. -/
def execCpyFromXct (a : DReg) (s : State) : Result :=
  supervisorOnly 0x9 s <| fallThrough (s.writeScalar a (cast (s.typeOf a) (TVal.ofU32 s.xct)))

/-- `cpy.s xct, dA` (R279): exception 0xa in user mode. -/
def execCpyToXct (a : DReg) (s : State) : Result :=
  supervisorOnly 0xa s <| fallThrough { s with xct := (s.scalar a).toU32 }

/-- `cpy.v dA, swiarg0` (R280): exception 0xb in user mode. -/
def execCpyFromSwiarg0 (a : DReg) (s : State) : Result :=
  supervisorOnly 0xb s <| fallThrough (s.writeVector a s.swiarg0)

/-- `cpy.v swiarg0, dA` (R281): exception 0xc in user mode. -/
def execCpyToSwiarg0 (a : DReg) (s : State) : Result :=
  supervisorOnly 0xc s <| fallThrough { s with swiarg0 := (s.d a).data }

/-- `cpy.v dA, swiarg1` (R282): exception 0xd in user mode. -/
def execCpyFromSwiarg1 (a : DReg) (s : State) : Result :=
  supervisorOnly 0xd s <| fallThrough (s.writeVector a s.swiarg1)

/-- `cpy.v swiarg1, dA` (R283): exception 0xe in user mode. -/
def execCpyToSwiarg1 (a : DReg) (s : State) : Result :=
  supervisorOnly 0xe s <| fallThrough { s with swiarg1 := (s.d a).data }

/-- `cpy.v dA, swiarg2` (R284): exception 0xf in user mode. -/
def execCpyFromSwiarg2 (a : DReg) (s : State) : Result :=
  supervisorOnly 0xf s <| fallThrough (s.writeVector a s.swiarg2)

/-- `cpy.v swiarg2, dA` (R285): exception 0x10 in user mode. -/
def execCpyToSwiarg2 (a : DReg) (s : State) : Result :=
  supervisorOnly 0x10 s <| fallThrough { s with swiarg2 := (s.d a).data }

/-- `cpy.v dA, swiarg3` (R286): exception 0x11 in user mode. -/
def execCpyFromSwiarg3 (a : DReg) (s : State) : Result :=
  supervisorOnly 0x11 s <| fallThrough (s.writeVector a s.swiarg3)

/-- `cpy.v swiarg3, dA` (R287): exception 0x12 in user mode. -/
def execCpyToSwiarg3 (a : DReg) (s : State) : Result :=
  supervisorOnly 0x12 s <| fallThrough { s with swiarg3 := (s.d a).data }

/-- `swi dA, dB, dC, dD` (R288): the four copies are made, then exception 0x4 is taken, in either mode. -/
def execSwi (a b c d : DReg) (s : State) : Result :=
  .next ({ s with
    swiarg0 := (s.d a).data, swiarg1 := (s.d b).data, swiarg2 := (s.d c).data, swiarg3 := (s.d d).data }.raise 0x4)

end Sys2Proof.Machine
end

