-- ==== Sys2Proof/Machine/Dup.lean ====
section
/-! DEFINITION. Group 6: duplicating a scalar into a vector (R215 to R223). -/

namespace Sys2Proof.Machine

/-- The common form of Group 6 (R215): dB's scalar, cast to the mnemonic's type, in every element of dA; then the type. -/
def dupOp (T : Ty) (a b : DReg) (s : State) : Result :=
  fallThrough ((s.writeVector a (lineOfElems s.config.byteOrder T fun _ => cast T (s.scalar b))).setType a T)

/-- `dpu8 dA, dB` (R216). -/
def execDpu8 (a b : DReg) (s : State) : Result :=
  dupOp .u8 a b s

/-- `dps8 dA, dB` (R217). -/
def execDps8 (a b : DReg) (s : State) : Result :=
  dupOp .s8 a b s

/-- `dpu16 dA, dB` (R218). -/
def execDpu16 (a b : DReg) (s : State) : Result :=
  dupOp .u16 a b s

/-- `dps16 dA, dB` (R219). -/
def execDps16 (a b : DReg) (s : State) : Result :=
  dupOp .s16 a b s

/-- `dpu32 dA, dB` (R220). -/
def execDpu32 (a b : DReg) (s : State) : Result :=
  dupOp .u32 a b s

/-- `dps32 dA, dB` (R221). -/
def execDps32 (a b : DReg) (s : State) : Result :=
  dupOp .s32 a b s

/-- `dpu64 dA, dB` (R222). -/
def execDpu64 (a b : DReg) (s : State) : Result :=
  dupOp .u64 a b s

/-- `dps64 dA, dB` (R223). -/
def execDps64 (a b : DReg) (s : State) : Result :=
  dupOp .s64 a b s

end Sys2Proof.Machine
end

