-- ==== Sys2Proof/Machine/Fetch.lean ====
section
/-! DEFINITION. Group 7: fetching instruction lines into ILARs (R230 to R232), and register ranges (R256). -/

namespace Sys2Proof.Machine

/-- The physical registers of the range of `n` LARs from number `first` on in a bank; none if it passes number 63
(R256, U8). -/
def regRange (m : Mode) (first : Fin 64) (n : Nat) : Option (List PhysReg) :=
  if n = 0 ∨ first.val + n ≤ 64 then some ((List.range n).map fun k => bankReg m (first + Fin.ofNat 64 k)) else none

/-- `IFill` of each of a list of ILARs with its address, in order (R230, R262). -/
def State.ifillAll (s : State) (fills : List (PhysReg × Addr)) : State :=
  fills.foldl (fun t x => t.ifill x.1 x.2) s

/-- Filling ILARs, unless the `ipc` of the running mode is among them (R230, R262, U9). -/
def fillIlars (fills : List (PhysReg × Addr)) (s : State) : Result :=
  if fills.any fun x => x.1 == ipcOf s.mode then .refused .fetchIntoIpc else fallThrough (s.ifillAll fills)

/-- The common form of Group 7 (R230): ILAR `iA + k` receives the line of `ea + 128 k`, `k` from 0 to `jimm4`. -/
def fetchFrom (a : IReg) (ea : Addr) (j : Nat) (s : State) : Result :=
  match regRange s.mode a (j + 1) with
  | none => .refused .registerRange
  | some regs => fillIlars (regs.zip ((List.range (j + 1)).map fun k => ea + BitVec.ofNat 32 (128 * k))) s

/-- `fetch iA, iB, dC, jimm4` (R231). -/
def execFetchReg (a b : IReg) (c : DReg) (j : Nat) (s : State) : Result :=
  fetchFrom a ((s.i b).addr + (s.scalar c).toU32) j s

/-- `fetch iA, iB, isimm11, jimm4` (R232). -/
def execFetchImm (a b : IReg) (imm : Int) (j : Nat) (s : State) : Result :=
  fetchFrom a ((s.i b).addr + BitVec.ofInt 32 (4 * imm)) j s

end Sys2Proof.Machine
end

