-- ==== Sys2Proof/Machine/Load.lean ====
section
/-! DEFINITION. Groups 2, 3 and 4: loads (R165 to R193). -/

namespace Sys2Proof.Machine

/-- A load of the line at an effective address into dA, at the mnemonic's type (R165). -/
def loadFrom (T : Ty) (a : DReg) (ea : Addr) (s : State) : Result := fallThrough (s.dload (s.reg a) ea T)

/-- The effective address of Groups 2 and 5: dB's scalar plus a displacement (R191, R200). -/
def baseImm (s : State) (b : DReg) (imm : Int) : Addr := (s.scalar b).toU32 + BitVec.ofInt 32 imm

/-- The effective address of Group 3: dB's address, aligned to dB's type, plus a displacement (R192). -/
def addrImm (s : State) (b : DReg) (imm : Int) : Addr := align (s.typeOf b) (s.d b).addr + BitVec.ofInt 32 imm

/-- The effective address of Group 4 and of IO: the sum of two scalars (R193, R295). -/
def baseIndex (s : State) (b c : DReg) : Addr := (s.scalar b).toU32 + (s.scalar c).toU32

/-- `ldu8i dA, dB, simm12` (R166). -/
def execLdu8i (a b : DReg) (imm : Int) (s : State) : Result :=
  loadFrom .u8 a (baseImm s b imm) s

/-- `lds8i dA, dB, simm12` (R167). -/
def execLds8i (a b : DReg) (imm : Int) (s : State) : Result :=
  loadFrom .s8 a (baseImm s b imm) s

/-- `ldu16i dA, dB, simm12` (R168). -/
def execLdu16i (a b : DReg) (imm : Int) (s : State) : Result :=
  loadFrom .u16 a (baseImm s b imm) s

/-- `lds16i dA, dB, simm12` (R169). -/
def execLds16i (a b : DReg) (imm : Int) (s : State) : Result :=
  loadFrom .s16 a (baseImm s b imm) s

/-- `ldu32i dA, dB, simm12` (R170). -/
def execLdu32i (a b : DReg) (imm : Int) (s : State) : Result :=
  loadFrom .u32 a (baseImm s b imm) s

/-- `lds32i dA, dB, simm12` (R171). -/
def execLds32i (a b : DReg) (imm : Int) (s : State) : Result :=
  loadFrom .s32 a (baseImm s b imm) s

/-- `ldu64i dA, dB, simm12` (R172). -/
def execLdu64i (a b : DReg) (imm : Int) (s : State) : Result :=
  loadFrom .u64 a (baseImm s b imm) s

/-- `lds64i dA, dB, simm12` (R173). -/
def execLds64i (a b : DReg) (imm : Int) (s : State) : Result :=
  loadFrom .s64 a (baseImm s b imm) s

/-- `ldu8i dA, dB.addr, simm12` (R174). -/
def execLdu8iAddr (a b : DReg) (imm : Int) (s : State) : Result :=
  loadFrom .u8 a (addrImm s b imm) s

/-- `lds8i dA, dB.addr, simm12` (R175). -/
def execLds8iAddr (a b : DReg) (imm : Int) (s : State) : Result :=
  loadFrom .s8 a (addrImm s b imm) s

/-- `ldu16i dA, dB.addr, simm12` (R176). -/
def execLdu16iAddr (a b : DReg) (imm : Int) (s : State) : Result :=
  loadFrom .u16 a (addrImm s b imm) s

/-- `lds16i dA, dB.addr, simm12` (R177). -/
def execLds16iAddr (a b : DReg) (imm : Int) (s : State) : Result :=
  loadFrom .s16 a (addrImm s b imm) s

/-- `ldu32i dA, dB.addr, simm12` (R178). -/
def execLdu32iAddr (a b : DReg) (imm : Int) (s : State) : Result :=
  loadFrom .u32 a (addrImm s b imm) s

/-- `lds32i dA, dB.addr, simm12` (R179). -/
def execLds32iAddr (a b : DReg) (imm : Int) (s : State) : Result :=
  loadFrom .s32 a (addrImm s b imm) s

/-- `ldu64i dA, dB.addr, simm12` (R180). -/
def execLdu64iAddr (a b : DReg) (imm : Int) (s : State) : Result :=
  loadFrom .u64 a (addrImm s b imm) s

/-- `lds64i dA, dB.addr, simm12` (R181). -/
def execLds64iAddr (a b : DReg) (imm : Int) (s : State) : Result :=
  loadFrom .s64 a (addrImm s b imm) s

/-- `ldu8 dA, dB, dC` (R182). -/
def execLdu8 (a b c : DReg) (s : State) : Result :=
  loadFrom .u8 a (baseIndex s b c) s

/-- `lds8 dA, dB, dC` (R183). -/
def execLds8 (a b c : DReg) (s : State) : Result :=
  loadFrom .s8 a (baseIndex s b c) s

/-- `ldu16 dA, dB, dC` (R184). -/
def execLdu16 (a b c : DReg) (s : State) : Result :=
  loadFrom .u16 a (baseIndex s b c) s

/-- `lds16 dA, dB, dC` (R185). -/
def execLds16 (a b c : DReg) (s : State) : Result :=
  loadFrom .s16 a (baseIndex s b c) s

/-- `ldu32 dA, dB, dC` (R186). -/
def execLdu32 (a b c : DReg) (s : State) : Result :=
  loadFrom .u32 a (baseIndex s b c) s

/-- `lds32 dA, dB, dC` (R187). -/
def execLds32 (a b c : DReg) (s : State) : Result :=
  loadFrom .s32 a (baseIndex s b c) s

/-- `ldu64 dA, dB, dC` (R188). -/
def execLdu64 (a b c : DReg) (s : State) : Result :=
  loadFrom .u64 a (baseIndex s b c) s

/-- `lds64 dA, dB, dC` (R189). -/
def execLds64 (a b c : DReg) (s : State) : Result :=
  loadFrom .s64 a (baseIndex s b c) s

end Sys2Proof.Machine
end

