-- ==== Sys2Proof/Machine/Io.lean ====
section
/-! DEFINITION. Group 11: IO space (R295 to R311). -/

namespace Sys2Proof.Machine

/-- The scalar `in` (R295): the type is set first, then the answer of the environment becomes dA's scalar. -/
def inScalar (T : Ty) (a b c : DReg) (s : State) : Result :=
  let t := s.setType a T
  let ioa := baseIndex t b c
  fallThrough ((t.ioRead ioa T.size).writeScalar a (TVal.ofBytes t.config.byteOrder T (t.ioAnswer ioa T.size)))

/-- The vector `in` (R295): the type is set first, then 128 bytes of the environment's answer become dA's data. -/
def inVector (T : Ty) (a b c : DReg) (s : State) : Result :=
  let t := s.setType a T
  let ioa := baseIndex t b c
  fallThrough ((t.ioRead ioa 128).writeBytes (t.reg a) 0 (t.ioAnswer ioa 128))

/-- The scalar `out` (R295): the type is set first, then dA's scalar is written; of a `d0`, zero bytes. -/
def outScalar (T : Ty) (a b c : DReg) (s : State) : Result :=
  let t := s.setType a T
  fallThrough (t.ioWrite (baseIndex t b c) ((t.scalarAt (t.d a) T).bytes t.config.byteOrder))

/-- The vector `out` (R295): the type is set first, then dA's 128 bytes are written. -/
def outVector (T : Ty) (a b c : DReg) (s : State) : Result :=
  let t := s.setType a T
  fallThrough (t.ioWrite (baseIndex t b c) (t.d a).data.toList)

/-- `inu8.s dA, dB, dC` (R296). -/
def execInu8S (a b c : DReg) (s : State) : Result :=
  inScalar .u8 a b c s

/-- `inu8.v dA, dB, dC` (R296). -/
def execInu8V (a b c : DReg) (s : State) : Result :=
  inVector .u8 a b c s

/-- `ins8.s dA, dB, dC` (R297). -/
def execIns8S (a b c : DReg) (s : State) : Result :=
  inScalar .s8 a b c s

/-- `ins8.v dA, dB, dC` (R297). -/
def execIns8V (a b c : DReg) (s : State) : Result :=
  inVector .s8 a b c s

/-- `inu16.s dA, dB, dC` (R298). -/
def execInu16S (a b c : DReg) (s : State) : Result :=
  inScalar .u16 a b c s

/-- `inu16.v dA, dB, dC` (R298). -/
def execInu16V (a b c : DReg) (s : State) : Result :=
  inVector .u16 a b c s

/-- `ins16.s dA, dB, dC` (R299). -/
def execIns16S (a b c : DReg) (s : State) : Result :=
  inScalar .s16 a b c s

/-- `ins16.v dA, dB, dC` (R299). -/
def execIns16V (a b c : DReg) (s : State) : Result :=
  inVector .s16 a b c s

/-- `inu32.s dA, dB, dC` (R300). -/
def execInu32S (a b c : DReg) (s : State) : Result :=
  inScalar .u32 a b c s

/-- `inu32.v dA, dB, dC` (R300). -/
def execInu32V (a b c : DReg) (s : State) : Result :=
  inVector .u32 a b c s

/-- `ins32.s dA, dB, dC` (R301). -/
def execIns32S (a b c : DReg) (s : State) : Result :=
  inScalar .s32 a b c s

/-- `ins32.v dA, dB, dC` (R301). -/
def execIns32V (a b c : DReg) (s : State) : Result :=
  inVector .s32 a b c s

/-- `inu64.s dA, dB, dC` (R302). -/
def execInu64S (a b c : DReg) (s : State) : Result :=
  inScalar .u64 a b c s

/-- `inu64.v dA, dB, dC` (R302). -/
def execInu64V (a b c : DReg) (s : State) : Result :=
  inVector .u64 a b c s

/-- `ins64.s dA, dB, dC` (R303). -/
def execIns64S (a b c : DReg) (s : State) : Result :=
  inScalar .s64 a b c s

/-- `ins64.v dA, dB, dC` (R303). -/
def execIns64V (a b c : DReg) (s : State) : Result :=
  inVector .s64 a b c s

/-- `outu8.s dA, dB, dC` (R304). -/
def execOutu8S (a b c : DReg) (s : State) : Result :=
  outScalar .u8 a b c s

/-- `outu8.v dA, dB, dC` (R304). -/
def execOutu8V (a b c : DReg) (s : State) : Result :=
  outVector .u8 a b c s

/-- `outs8.s dA, dB, dC` (R305). -/
def execOuts8S (a b c : DReg) (s : State) : Result :=
  outScalar .s8 a b c s

/-- `outs8.v dA, dB, dC` (R305). -/
def execOuts8V (a b c : DReg) (s : State) : Result :=
  outVector .s8 a b c s

/-- `outu16.s dA, dB, dC` (R306). -/
def execOutu16S (a b c : DReg) (s : State) : Result :=
  outScalar .u16 a b c s

/-- `outu16.v dA, dB, dC` (R306). -/
def execOutu16V (a b c : DReg) (s : State) : Result :=
  outVector .u16 a b c s

/-- `outs16.s dA, dB, dC` (R307). -/
def execOuts16S (a b c : DReg) (s : State) : Result :=
  outScalar .s16 a b c s

/-- `outs16.v dA, dB, dC` (R307). -/
def execOuts16V (a b c : DReg) (s : State) : Result :=
  outVector .s16 a b c s

/-- `outu32.s dA, dB, dC` (R308). -/
def execOutu32S (a b c : DReg) (s : State) : Result :=
  outScalar .u32 a b c s

/-- `outu32.v dA, dB, dC` (R308). -/
def execOutu32V (a b c : DReg) (s : State) : Result :=
  outVector .u32 a b c s

/-- `outs32.s dA, dB, dC` (R309). -/
def execOuts32S (a b c : DReg) (s : State) : Result :=
  outScalar .s32 a b c s

/-- `outs32.v dA, dB, dC` (R309). -/
def execOuts32V (a b c : DReg) (s : State) : Result :=
  outVector .s32 a b c s

/-- `outu64.s dA, dB, dC` (R310). -/
def execOutu64S (a b c : DReg) (s : State) : Result :=
  outScalar .u64 a b c s

/-- `outu64.v dA, dB, dC` (R310). -/
def execOutu64V (a b c : DReg) (s : State) : Result :=
  outVector .u64 a b c s

/-- `outs64.s dA, dB, dC` (R311). -/
def execOuts64S (a b c : DReg) (s : State) : Result :=
  outScalar .s64 a b c s

/-- `outs64.v dA, dB, dC` (R311). -/
def execOuts64V (a b c : DReg) (s : State) : Result :=
  outVector .s64 a b c s

end Sys2Proof.Machine
end

