-- ==== Sys2Proof/Machine/LarMgmt.lean ====
section
/-! DEFINITION. Group 9: LAR management (R255 to R265). -/

namespace Sys2Proof.Machine

/-- The places of `n` consecutive elements, from element `e` of DLAR number `k` of the running mode on, each DLAR at its
own type; none if DLAR number 63 is passed (R257). -/
def State.slots (s : State) : (n k e : Nat) → Option (List (DReg × Nat))
  | 0, _, _ => some []
  | n + 1, k, e =>
    if h : k < 64 then
      let rest := if e + 1 = (s.typeOf ⟨k, h⟩).lanes then s.slots n (k + 1) 0 else s.slots n k (e + 1)
      rest.map fun l => (⟨k, h⟩, e) :: l
    else none

/-- The element stream of `n` elements that starts at DLAR number `first` (R257). -/
def State.stream (s : State) (first : DReg) (n : Nat) : Option (List (DReg × Nat)) := s.slots n first.val 0

/-- A stream written, one value in each place, cast to the type of the DLAR it lands in (R257). -/
def State.writeStream (s : State) (slots : List (DReg × Nat)) (values : List (BitVec 32)) : State :=
  (slots.zip values).foldl (fun t x => t.writeElem (t.reg x.1.1) x.1.2 (cast (t.typeOf x.1.1) (TVal.ofU32 x.2))) s

/-- The values of a stream, each cast to u32 (R257). -/
def State.readStream (s : State) (slots : List (DReg × Nat)) : List (BitVec 32) :=
  slots.map fun x => (s.lane x.1 x.2).toU32

/-- The common form of `getaddrs` and `gettypes` (R258 to R260): a value of each LAR of a range of a bank, written into the
stream that starts at dA. -/
def gather (bank : Mode) (value : PhysReg → BitVec 32) (a : DReg) (first : Fin 64) (n : Nat) (s : State) : Result :=
  bankAllowed 0x13 bank s <|
    match regRange bank first n, s.stream a n with
    | some regs, some slots => fallThrough (s.writeStream slots (regs.map value))
    | _, _ => .refused .registerRange

/-- The common form of `reload` and `flush` (R263 to R265): an operation on each LAR of a range of a bank, in order. -/
def onRange (code : BitVec 32) (bank : Mode) (op : State → PhysReg → State) (first : Fin 64) (n : Nat) (s : State) :
    Result :=
  bankAllowed code bank s <|
    match regRange bank first n with
    | some regs => fallThrough (regs.foldl op s)
    | none => .refused .registerRange

/-- `DLoad` of each of a list of DLARs with its address and type, in order (R261). -/
def State.dloadAll (s : State) (loads : List (PhysReg × Addr × Ty)) : State :=
  loads.foldl (fun t x => t.dload x.1 x.2.1 x.2.2) s

/-- The type codes of a stream as types, if every one is a type's code (R261). -/
def typesOf (codes : List (BitVec 32)) : Option (List Ty) := codes.mapM fun c => Ty.ofCode c.toNat

/-- `ldm` (R261): the addresses and the types come from two streams of the running mode, the destinations are of the bank
the S bit names. -/
def loadMultiple (bank : Mode) (a b c : DReg) (n : Nat) (s : State) : Result :=
  bankAllowed 0x14 bank s <|
    match regRange bank a n, s.stream b n, s.stream c n with
    | some regs, some addrs, some codes =>
      match typesOf (s.readStream codes) with
      | none => .refused .ldmTypeCode
      | some types =>
        if (addrs ++ codes).any fun x => regs.contains (s.reg x.1) then .refused .ldmOverlap
        else fallThrough (s.dloadAll (regs.zip ((s.readStream addrs).zip types)))
    | _, _, _ => .refused .registerRange

/-- `fetchm` (R262): each destination ILAR has its own address, from the stream that starts at dB. -/
def fetchMultiple (bank : Mode) (a : IReg) (b : DReg) (n : Nat) (s : State) : Result :=
  bankAllowed 0x14 bank s <|
    match regRange bank a n, s.stream b n with
    | some regs, some addrs => fillIlars (regs.zip (s.readStream addrs)) s
    | _, _ => .refused .registerRange

/-- `getaddrs.U dA, dB, imm6` (R258). -/
def execGetaddrsU (a b : DReg) (n : Nat) (s : State) : Result :=
  gather .user (fun k => (s.dlar k).addr) a b n s

/-- `getaddrs.U dA, iB, imm6` (R259). -/
def execGetaddrsIU (a : DReg) (b : IReg) (n : Nat) (s : State) : Result :=
  gather .user (fun k => (s.ilar k).addr) a b n s

/-- `gettypes.U dA, dB, imm6` (R260). -/
def execGettypesU (a b : DReg) (n : Nat) (s : State) : Result :=
  gather .user (fun k => BitVec.ofNat 32 (s.dlar k).type.code) a b n s

/-- `ldm.U dA, dB, dC, imm6` (R261). -/
def execLdmU (a b c : DReg) (n : Nat) (s : State) : Result :=
  loadMultiple .user a b c n s

/-- `fetchm.U iA, dB, imm6` (R262). -/
def execFetchmU (a : IReg) (b : DReg) (n : Nat) (s : State) : Result :=
  fetchMultiple .user a b n s

/-- `reload.U dA, imm6` (R263). -/
def execReloadU (a : DReg) (n : Nat) (s : State) : Result :=
  onRange 0x14 .user State.dreload a n s

/-- `flush.U dA, imm6` (R264). -/
def execFlushU (a : DReg) (n : Nat) (s : State) : Result :=
  onRange 0x13 .user State.dflush a n s

/-- `reload.U iA, imm6` (R265). -/
def execReloadIU (a : IReg) (n : Nat) (s : State) : Result :=
  onRange 0x14 .user State.ireload a n s

/-- `getaddrs.S dA, dB, imm6` (R258). -/
def execGetaddrsS (a b : DReg) (n : Nat) (s : State) : Result :=
  gather .supervisor (fun k => (s.dlar k).addr) a b n s

/-- `getaddrs.S dA, iB, imm6` (R259). -/
def execGetaddrsIS (a : DReg) (b : IReg) (n : Nat) (s : State) : Result :=
  gather .supervisor (fun k => (s.ilar k).addr) a b n s

/-- `gettypes.S dA, dB, imm6` (R260). -/
def execGettypesS (a b : DReg) (n : Nat) (s : State) : Result :=
  gather .supervisor (fun k => BitVec.ofNat 32 (s.dlar k).type.code) a b n s

/-- `ldm.S dA, dB, dC, imm6` (R261). -/
def execLdmS (a b c : DReg) (n : Nat) (s : State) : Result :=
  loadMultiple .supervisor a b c n s

/-- `fetchm.S iA, dB, imm6` (R262). -/
def execFetchmS (a : IReg) (b : DReg) (n : Nat) (s : State) : Result :=
  fetchMultiple .supervisor a b n s

/-- `reload.S dA, imm6` (R263). -/
def execReloadS (a : DReg) (n : Nat) (s : State) : Result :=
  onRange 0x14 .supervisor State.dreload a n s

/-- `flush.S dA, imm6` (R264). -/
def execFlushS (a : DReg) (n : Nat) (s : State) : Result :=
  onRange 0x13 .supervisor State.dflush a n s

/-- `reload.S iA, imm6` (R265). -/
def execReloadIS (a : IReg) (n : Nat) (s : State) : Result :=
  onRange 0x14 .supervisor State.ireload a n s

end Sys2Proof.Machine
end

