-- ==== Sys2Proof/Machine/Reduce.lean ====
section
/-! DEFINITION. Group 1: reductions (R150 to R157). -/

namespace Sys2Proof.Machine

/-- The common form of Group 1 (R150): all elements of dB, read at dA's type, combined into dA's scalar. -/
def reduceOp (op : TVal → TVal → TVal) (a b : DReg) (s : State) : Result :=
  if (s.typeOf b).size = (s.typeOf a).size then
    fallThrough (s.writeScalar a (reduce op (fun k => cast (s.typeOf a) (s.lane b k)) (s.typeOf a).lanes))
  else .refused .vecMixedSize

/-- `add.r dA, dB` (R151). -/
def execAddR (a b : DReg) (s : State) : Result :=
  reduceOp TVal.add a b s

/-- `mul.r dA, dB` (R152): exception 0x3 if dA is 64-bit. -/
def execMulR (a b : DReg) (s : State) : Result :=
  unless64 [s.typeOf a] s <| reduceOp TVal.mul a b s

/-- `max.r dA, dB` (R153). -/
def execMaxR (a b : DReg) (s : State) : Result :=
  reduceOp TVal.max a b s

/-- `min.r dA, dB` (R154). -/
def execMinR (a b : DReg) (s : State) : Result :=
  reduceOp TVal.min a b s

/-- `and.r dA, dB` (R155). -/
def execAndR (a b : DReg) (s : State) : Result :=
  reduceOp TVal.and a b s

/-- `or.r dA, dB` (R156). -/
def execOrR (a b : DReg) (s : State) : Result :=
  reduceOp TVal.or a b s

/-- `xor.r dA, dB` (R157). -/
def execXorR (a b : DReg) (s : State) : Result :=
  reduceOp TVal.xor a b s

end Sys2Proof.Machine
end

