-- ==== Sys2Proof/Machine/Store.lean ====
section
/-! DEFINITION. Group 5: stores (R200 to R208). -/

namespace Sys2Proof.Machine

/-- The common form of Group 5 (R200): dA's type is set first and the effective address computed; then, by `STORE_MODE`, dA's
scalar is stored at that address aligned to the type (`scalar_write`, D16), or dA's line becomes the line at that address
(`line_retag`, U5). -/
def storeTo (T : Ty) (a b : DReg) (imm : Int) (s : State) : Result :=
  let t := s.setType a T
  let ea := baseImm t b imm
  match s.config.storeMode with
  | .scalarWrite => fallThrough (t.dataWrite (align T ea) (t.scalarAt (t.d a) T))
  | .lineRetag => fallThrough (t.retag (t.reg a) ea T)

/-- `stu8i dA, dB, simm12` (R201). -/
def execStu8i (a b : DReg) (imm : Int) (s : State) : Result :=
  storeTo .u8 a b imm s

/-- `sts8i dA, dB, simm12` (R202). -/
def execSts8i (a b : DReg) (imm : Int) (s : State) : Result :=
  storeTo .s8 a b imm s

/-- `stu16i dA, dB, simm12` (R203). -/
def execStu16i (a b : DReg) (imm : Int) (s : State) : Result :=
  storeTo .u16 a b imm s

/-- `sts16i dA, dB, simm12` (R204). -/
def execSts16i (a b : DReg) (imm : Int) (s : State) : Result :=
  storeTo .s16 a b imm s

/-- `stu32i dA, dB, simm12` (R205). -/
def execStu32i (a b : DReg) (imm : Int) (s : State) : Result :=
  storeTo .u32 a b imm s

/-- `sts32i dA, dB, simm12` (R206). -/
def execSts32i (a b : DReg) (imm : Int) (s : State) : Result :=
  storeTo .s32 a b imm s

/-- `stu64i dA, dB, simm12` (R207). -/
def execStu64i (a b : DReg) (imm : Int) (s : State) : Result :=
  storeTo .u64 a b imm s

/-- `sts64i dA, dB, simm12` (R208). -/
def execSts64i (a b : DReg) (imm : Int) (s : State) : Result :=
  storeTo .s64 a b imm s

end Sys2Proof.Machine
end

