-- ==== Sys2Proof/Machine/Dispatch.lean ====
section
/-! DEFINITION. The dispatch: one arm per instruction, one meaning per arm. -/

namespace Sys2Proof.Machine

def exec (i : Instr) (s : State) : Host.Outcome State Fault Refusal :=
  match i with
  | .addS a b c => Sys2Proof.Machine.execAddS a b c s
  | .addV a b c => Sys2Proof.Machine.execAddV a b c s
  | .subS a b c => Sys2Proof.Machine.execSubS a b c s
  | .subV a b c => Sys2Proof.Machine.execSubV a b c s
  | .sltS a b c => Sys2Proof.Machine.execSltS a b c s
  | .sltV a b c => Sys2Proof.Machine.execSltV a b c s
  | .mulS a b c => Sys2Proof.Machine.execMulS a b c s
  | .mulV a b c => Sys2Proof.Machine.execMulV a b c s
  | .andS a b c => Sys2Proof.Machine.execAndS a b c s
  | .andV a b c => Sys2Proof.Machine.execAndV a b c s
  | .orS a b c => Sys2Proof.Machine.execOrS a b c s
  | .orV a b c => Sys2Proof.Machine.execOrV a b c s
  | .xorS a b c => Sys2Proof.Machine.execXorS a b c s
  | .xorV a b c => Sys2Proof.Machine.execXorV a b c s
  | .shlS a b c => Sys2Proof.Machine.execShlS a b c s
  | .shlV a b c => Sys2Proof.Machine.execShlV a b c s
  | .shrS a b c => Sys2Proof.Machine.execShrS a b c s
  | .shrV a b c => Sys2Proof.Machine.execShrV a b c s
  | .rolS a b c => Sys2Proof.Machine.execRolS a b c s
  | .rolV a b c => Sys2Proof.Machine.execRolV a b c s
  | .rorS a b c => Sys2Proof.Machine.execRorS a b c s
  | .rorV a b c => Sys2Proof.Machine.execRorV a b c s
  | .addAddrS a b c => Sys2Proof.Machine.execAddAddrS a b c s
  | .addAddrV a b c => Sys2Proof.Machine.execAddAddrV a b c s
  | .shlAddrS a b c => Sys2Proof.Machine.execShlAddrS a b c s
  | .shlAddrV a b c => Sys2Proof.Machine.execShlAddrV a b c s
  | .addIaddrS a b c => Sys2Proof.Machine.execAddIaddrS a b c s
  | .addIaddrV a b c => Sys2Proof.Machine.execAddIaddrV a b c s
  | .divS a b c d => Sys2Proof.Machine.execDivS a b c d s
  | .divV a b c d => Sys2Proof.Machine.execDivV a b c d s
  | .addR a b => Sys2Proof.Machine.execAddR a b s
  | .mulR a b => Sys2Proof.Machine.execMulR a b s
  | .maxR a b => Sys2Proof.Machine.execMaxR a b s
  | .minR a b => Sys2Proof.Machine.execMinR a b s
  | .andR a b => Sys2Proof.Machine.execAndR a b s
  | .orR a b => Sys2Proof.Machine.execOrR a b s
  | .xorR a b => Sys2Proof.Machine.execXorR a b s
  | .ldu8i a b imm => Sys2Proof.Machine.execLdu8i a b imm s
  | .lds8i a b imm => Sys2Proof.Machine.execLds8i a b imm s
  | .ldu16i a b imm => Sys2Proof.Machine.execLdu16i a b imm s
  | .lds16i a b imm => Sys2Proof.Machine.execLds16i a b imm s
  | .ldu32i a b imm => Sys2Proof.Machine.execLdu32i a b imm s
  | .lds32i a b imm => Sys2Proof.Machine.execLds32i a b imm s
  | .ldu64i a b imm => Sys2Proof.Machine.execLdu64i a b imm s
  | .lds64i a b imm => Sys2Proof.Machine.execLds64i a b imm s
  | .ldu8iAddr a b imm => Sys2Proof.Machine.execLdu8iAddr a b imm s
  | .lds8iAddr a b imm => Sys2Proof.Machine.execLds8iAddr a b imm s
  | .ldu16iAddr a b imm => Sys2Proof.Machine.execLdu16iAddr a b imm s
  | .lds16iAddr a b imm => Sys2Proof.Machine.execLds16iAddr a b imm s
  | .ldu32iAddr a b imm => Sys2Proof.Machine.execLdu32iAddr a b imm s
  | .lds32iAddr a b imm => Sys2Proof.Machine.execLds32iAddr a b imm s
  | .ldu64iAddr a b imm => Sys2Proof.Machine.execLdu64iAddr a b imm s
  | .lds64iAddr a b imm => Sys2Proof.Machine.execLds64iAddr a b imm s
  | .ldu8 a b c => Sys2Proof.Machine.execLdu8 a b c s
  | .lds8 a b c => Sys2Proof.Machine.execLds8 a b c s
  | .ldu16 a b c => Sys2Proof.Machine.execLdu16 a b c s
  | .lds16 a b c => Sys2Proof.Machine.execLds16 a b c s
  | .ldu32 a b c => Sys2Proof.Machine.execLdu32 a b c s
  | .lds32 a b c => Sys2Proof.Machine.execLds32 a b c s
  | .ldu64 a b c => Sys2Proof.Machine.execLdu64 a b c s
  | .lds64 a b c => Sys2Proof.Machine.execLds64 a b c s
  | .stu8i a b imm => Sys2Proof.Machine.execStu8i a b imm s
  | .sts8i a b imm => Sys2Proof.Machine.execSts8i a b imm s
  | .stu16i a b imm => Sys2Proof.Machine.execStu16i a b imm s
  | .sts16i a b imm => Sys2Proof.Machine.execSts16i a b imm s
  | .stu32i a b imm => Sys2Proof.Machine.execStu32i a b imm s
  | .sts32i a b imm => Sys2Proof.Machine.execSts32i a b imm s
  | .stu64i a b imm => Sys2Proof.Machine.execStu64i a b imm s
  | .sts64i a b imm => Sys2Proof.Machine.execSts64i a b imm s
  | .dpu8 a b => Sys2Proof.Machine.execDpu8 a b s
  | .dps8 a b => Sys2Proof.Machine.execDps8 a b s
  | .dpu16 a b => Sys2Proof.Machine.execDpu16 a b s
  | .dps16 a b => Sys2Proof.Machine.execDps16 a b s
  | .dpu32 a b => Sys2Proof.Machine.execDpu32 a b s
  | .dps32 a b => Sys2Proof.Machine.execDps32 a b s
  | .dpu64 a b => Sys2Proof.Machine.execDpu64 a b s
  | .dps64 a b => Sys2Proof.Machine.execDps64 a b s
  | .fetchReg a b c j => Sys2Proof.Machine.execFetchReg a b c j s
  | .fetchImm a b imm j => Sys2Proof.Machine.execFetchImm a b imm j s
  | .selS a b m n => Sys2Proof.Machine.execSelS a b m n s
  | .selV a b m n => Sys2Proof.Machine.execSelV a b m n s
  | .jzS a b m => Sys2Proof.Machine.execJzS a b m s
  | .jzV a b m => Sys2Proof.Machine.execJzV a b m s
  | .jnzS a b m => Sys2Proof.Machine.execJnzS a b m s
  | .jnzV a b m => Sys2Proof.Machine.execJnzV a b m s
  | .retiS a => Sys2Proof.Machine.execRetiS a s
  | .retiV a => Sys2Proof.Machine.execRetiV a s
  | .retxS a => Sys2Proof.Machine.execRetxS a s
  | .retxV a => Sys2Proof.Machine.execRetxV a s
  | .getaddrsU a b n => Sys2Proof.Machine.execGetaddrsU a b n s
  | .getaddrsS a b n => Sys2Proof.Machine.execGetaddrsS a b n s
  | .getaddrsIU a b n => Sys2Proof.Machine.execGetaddrsIU a b n s
  | .getaddrsIS a b n => Sys2Proof.Machine.execGetaddrsIS a b n s
  | .gettypesU a b n => Sys2Proof.Machine.execGettypesU a b n s
  | .gettypesS a b n => Sys2Proof.Machine.execGettypesS a b n s
  | .ldmU a b c n => Sys2Proof.Machine.execLdmU a b c n s
  | .ldmS a b c n => Sys2Proof.Machine.execLdmS a b c n s
  | .fetchmU a b n => Sys2Proof.Machine.execFetchmU a b n s
  | .fetchmS a b n => Sys2Proof.Machine.execFetchmS a b n s
  | .reloadU a n => Sys2Proof.Machine.execReloadU a n s
  | .reloadS a n => Sys2Proof.Machine.execReloadS a n s
  | .flushU a n => Sys2Proof.Machine.execFlushU a n s
  | .flushS a n => Sys2Proof.Machine.execFlushS a n s
  | .reloadIU a n => Sys2Proof.Machine.execReloadIU a n s
  | .reloadIS a n => Sys2Proof.Machine.execReloadIS a n s
  | .cpyFromIe a => Sys2Proof.Machine.execCpyFromIe a s
  | .cpyToIe a => Sys2Proof.Machine.execCpyToIe a s
  | .cpyFromXct a => Sys2Proof.Machine.execCpyFromXct a s
  | .cpyToXct a => Sys2Proof.Machine.execCpyToXct a s
  | .cpyFromSwiarg0 a => Sys2Proof.Machine.execCpyFromSwiarg0 a s
  | .cpyToSwiarg0 a => Sys2Proof.Machine.execCpyToSwiarg0 a s
  | .cpyFromSwiarg1 a => Sys2Proof.Machine.execCpyFromSwiarg1 a s
  | .cpyToSwiarg1 a => Sys2Proof.Machine.execCpyToSwiarg1 a s
  | .cpyFromSwiarg2 a => Sys2Proof.Machine.execCpyFromSwiarg2 a s
  | .cpyToSwiarg2 a => Sys2Proof.Machine.execCpyToSwiarg2 a s
  | .cpyFromSwiarg3 a => Sys2Proof.Machine.execCpyFromSwiarg3 a s
  | .cpyToSwiarg3 a => Sys2Proof.Machine.execCpyToSwiarg3 a s
  | .swi a b c d => Sys2Proof.Machine.execSwi a b c d s
  | .inu8S a b c => Sys2Proof.Machine.execInu8S a b c s
  | .inu8V a b c => Sys2Proof.Machine.execInu8V a b c s
  | .ins8S a b c => Sys2Proof.Machine.execIns8S a b c s
  | .ins8V a b c => Sys2Proof.Machine.execIns8V a b c s
  | .inu16S a b c => Sys2Proof.Machine.execInu16S a b c s
  | .inu16V a b c => Sys2Proof.Machine.execInu16V a b c s
  | .ins16S a b c => Sys2Proof.Machine.execIns16S a b c s
  | .ins16V a b c => Sys2Proof.Machine.execIns16V a b c s
  | .inu32S a b c => Sys2Proof.Machine.execInu32S a b c s
  | .inu32V a b c => Sys2Proof.Machine.execInu32V a b c s
  | .ins32S a b c => Sys2Proof.Machine.execIns32S a b c s
  | .ins32V a b c => Sys2Proof.Machine.execIns32V a b c s
  | .inu64S a b c => Sys2Proof.Machine.execInu64S a b c s
  | .inu64V a b c => Sys2Proof.Machine.execInu64V a b c s
  | .ins64S a b c => Sys2Proof.Machine.execIns64S a b c s
  | .ins64V a b c => Sys2Proof.Machine.execIns64V a b c s
  | .outu8S a b c => Sys2Proof.Machine.execOutu8S a b c s
  | .outu8V a b c => Sys2Proof.Machine.execOutu8V a b c s
  | .outs8S a b c => Sys2Proof.Machine.execOuts8S a b c s
  | .outs8V a b c => Sys2Proof.Machine.execOuts8V a b c s
  | .outu16S a b c => Sys2Proof.Machine.execOutu16S a b c s
  | .outu16V a b c => Sys2Proof.Machine.execOutu16V a b c s
  | .outs16S a b c => Sys2Proof.Machine.execOuts16S a b c s
  | .outs16V a b c => Sys2Proof.Machine.execOuts16V a b c s
  | .outu32S a b c => Sys2Proof.Machine.execOutu32S a b c s
  | .outu32V a b c => Sys2Proof.Machine.execOutu32V a b c s
  | .outs32S a b c => Sys2Proof.Machine.execOuts32S a b c s
  | .outs32V a b c => Sys2Proof.Machine.execOuts32V a b c s
  | .outu64S a b c => Sys2Proof.Machine.execOutu64S a b c s
  | .outu64V a b c => Sys2Proof.Machine.execOutu64V a b c s
  | .outs64S a b c => Sys2Proof.Machine.execOuts64S a b c s
  | .outs64V a b c => Sys2Proof.Machine.execOuts64V a b c s

end Sys2Proof.Machine
end

