-- ==== Sys2Proof/Machine/Sequence.lean ====
section
/-! DEFINITION. What one step does around an instruction (R36): sampling the interrupt request, finding the line of the
`ipc`, reading the instruction word and decoding it. -/

namespace Sys2Proof.Machine

/-- The level of the interrupt request at this step (R333, R334): from the script, else a free value (log entry 3). -/
def State.irq (s : State) : Bool := s.irqScript.headD (Config.irqAt s.steps)

/-- An interrupt is taken at this step (R36 step 1, R333). -/
def State.interruptDue (s : State) : Bool := s.ie && s.irq

/-- The MODEL's own bookkeeping of a step: its number moves on, its interrupt request is used up (log entry 3). -/
def State.tick (s : State) : State := { s with steps := s.steps + 1, irqScript := s.irqScript.tail }

/-- R36 step 2 when the line of the running `ipc` has been found in another ILAR. -/
def State.withLine (s : State) (l : Line) : State :=
  (s.setIlar (ipcOf s.mode) { s.ipc with data := l }).setIv s.mode true

/-- R36 step 2: an `ipc` whose `iv` bit is 0 gets its line from another ILAR; where none has it, user mode takes exception
0x15 with the address kept (R330), and supervisor mode has no defined behaviour (R37, U12). -/
def withIpcLine (s : State) (rest : State → Result) : Result :=
  if s.iv s.mode then rest s
  else
    match s.ilookup (lineOf s.pc) (ipcOf s.mode) with
    | some l => rest (s.withLine l)
    | none =>
      match s.mode with
      | .user => .next (s.enter 0x15)
      | .supervisor => .fault .supervisorImiss

/-- The place in its line of the instruction that the running `ipc` addresses: `4 k` with `k = addr[6:2]` (R35, R36). -/
def State.instrOffset (s : State) : Nat := 4 * (offsetOf s.pc / 4)

/-- What the word at the running `ipc` decodes to (R35, R36 steps 3 and 4). -/
def State.decoded (s : State) : Decoded := decodeBytes s.config.byteOrder (slice s.ipc.data s.instrOffset 4)

/-- R36 step 4: the instruction runs; an undefined word raises exception 0x2 (R104), a rejected one is refused (R105). -/
def runDecoded (s : State) : Result :=
  match s.decoded with
  | .ok i => exec i s
  | .undefined => .next (s.raise 0x2)
  | .rejected why => .refused (.rejectedWord why)

/-- One step of the processor (R36). -/
def stepOnce (s : State) : Result :=
  if s.interruptDue then .next (s.tick.enter 0x0) else withIpcLine s.tick runDecoded

/-- A word stored at the running `ipc`, its line found, no interrupt request at the next step: the state whose next step
fetches and runs exactly that word (log entry 17). The bits of `w` from `nbits` on are taken as zero. -/
def State.placeWord (s : State) (nbits w : Nat) : State :=
  let bytes := wordBytes s.config.byteOrder (BitVec.ofNat 32 (w % 2 ^ nbits))
  let t := (s.setIlar (ipcOf s.mode) { s.ipc with data := patch s.ipc.data s.instrOffset bytes }).setIv s.mode true
  if s.ie then { t with irqScript := false :: s.irqScript.tail } else t

end Sys2Proof.Machine
end

