-- ==== Sys2Proof/Safety.lean ====
section
/-! DEFINITION. The terms the statements use: integer readings of typed values, what each shared operation changes and what
it leaves alone (said through the accessors a reader of the spec would use: fields of registers, bytes of lines, bytes of
memory), the invariants of the machine, and a safe run. -/

namespace Sys2Proof.Machine

/-! ### Values -/

/-- The integer that `z` becomes at type `T`: `z mod 2^w(T)`, read as signed or unsigned (R7, R8). -/
def wrapTo (T : Ty) (z : Int) : Int := if T.signed then z.bmod (2 ^ T.width) else z % 2 ^ T.width

/-- The pattern of `z` at type `T` as a number: `z mod 2^w(T)` (R8). -/
def patternOf (T : Ty) (z : Int) : Nat := (z % 2 ^ T.width).toNat

/-- The number that bytes in address order denote: the sum of byte `j` times 256^j where the byte order is little, and of byte
`j` times 256^(n-1-j), of `n` bytes, where it is big (R60, D1). -/
def denoted (order : ByteOrder) (bs : List Byte) : Nat :=
  match order with
  | .little => ((List.range bs.length).map fun j => (bs.getD j 0).toNat * 256 ^ j).sum
  | .big => ((List.range bs.length).map fun j => (bs.getD j 0).toNat * 256 ^ (bs.length - 1 - j)).sum

/-- The bytes of `z` at type `T` in address order (R8, R60). -/
def bytesOfInt (order : ByteOrder) (T : Ty) (z : Int) : List Byte := natToBytes order T.size (patternOf T z)

/-- The bytes of a line whose elements at type `T` are `f 0`, `f 1`, ... (R28). -/
def bytesOfLanes (order : ByteOrder) (T : Ty) (f : Nat → Int) : List Byte :=
  (List.range T.lanes).flatMap fun k => bytesOfInt order T (f k)

/-- The scalar of `d[n]` cast to `T`, as an integer (R8, R27, R120). -/
def State.scalarVal (s : State) (T : Ty) (n : DReg) : Int := wrapTo T (s.scalar n).val

/-- Element `k` of `d[n]`, at the register's own type, cast to `T`, as an integer (R8, R28, R120). -/
def State.laneVal (s : State) (T : Ty) (n : DReg) (k : Nat) : Int := wrapTo T (s.lane n k).val

/-- The multiple of `size(T)` at or below a number: alignment, by arithmetic (R9). -/
def alignNat (T : Ty) (n : Nat) : Nat := n / T.size * T.size

/-- The place of the scalar of `d[n]` in its line, when read at type `T` (R27). -/
def State.scalarPlace (s : State) (T : Ty) (n : DReg) : Nat := alignNat T (offsetOf (s.d n).addr)

/-- Bytes `p` to `p + n - 1` of the data of `d[k]` (R10, R25). -/
def State.dataBytes (s : State) (k : DReg) (p n : Nat) : List Byte := (List.range n).map fun i => byteAt (s.d k).data (p + i)

/-- None of these DLARs is of a 64-bit type (R121). -/
def State.No64 (s : State) (regs : List DReg) : Prop := ∀ n ∈ regs, (s.typeOf n).is64 = false

/-- The elements of these DLARs have the size of those of `d[a]` (R120). -/
def State.SameSize (s : State) (a : DReg) (regs : List DReg) : Prop := ∀ n ∈ regs, (s.typeOf n).size = (s.typeOf a).size

/-- The scalar data of `d[a]` is not zero (R240). -/
def State.NonZeroScalar (s : State) (a : DReg) : Prop := (s.scalar a).val ≠ 0

/-- Some byte of the data of `d[a]` is not zero (R240). -/
def State.NonZeroVector (s : State) (a : DReg) : Prop := ∃ j, j < 128 ∧ byteAt (s.d a).data j ≠ 0

/-- The range of `n` LARs from number `first` on does not pass number 63 (R256). -/
def InBank (first : Fin 64) (n : Nat) : Prop := n = 0 ∨ first.val + n ≤ 64

/-- The LARs of a range, in order (R256). -/
def bankRange (m : Mode) (first : Fin 64) (n : Nat) : List PhysReg :=
  (List.range n).map fun k => bankReg m (first + Fin.ofNat 64 k)

/-! ### What stays the same -/

/-- Everything but the LARs, their `iv` bits and memory. -/
structure SameRest (s t : State) : Prop where
  config : t.config = s.config
  mode : t.mode = s.mode
  ie : t.ie = s.ie
  xct : t.xct = s.xct
  swiarg0 : t.swiarg0 = s.swiarg0
  swiarg1 : t.swiarg1 = s.swiarg1
  swiarg2 : t.swiarg2 = s.swiarg2
  swiarg3 : t.swiarg3 = s.swiarg3
  ioLog : t.ioLog = s.ioLog
  ioScript : t.ioScript = s.ioScript
  irqScript : t.irqScript = s.irqScript
  steps : t.steps = s.steps

/-- Every DLAR of either bank. -/
def SameDlars (s t : State) : Prop := ∀ k, t.dlar k = s.dlar k

/-- Every ILAR of either bank, the `ipc`s among them, and both `iv` bits. -/
def SameIlars (s t : State) : Prop := (∀ k, t.ilar k = s.ilar k) ∧ ∀ m, t.iv m = s.iv m

/-- Every byte of memory. -/
def SameMem (s t : State) : Prop := ∀ a, t.mem.read a = s.mem.read a

/-! ### Sequencing -/

/-- Case (a) of R36: the running `ipc` moves to the next instruction, its `iv` bit is cleared if that lies in another line,
and nothing else changes. -/
structure FallsThrough (s t : State) : Prop where
  rest : SameRest s t
  dlars : SameDlars s t
  mem : SameMem s t
  ipc : t.ilar (ipcOf s.mode) = { s.ipc with addr := s.pc + 4 }
  ilars : ∀ k, k ≠ ipcOf s.mode → t.ilar k = s.ilar k
  iv : t.iv s.mode = (s.iv s.mode && lineOf (s.pc + 4) == lineOf s.pc)
  otherIv : ∀ m, m ≠ s.mode → t.iv m = s.iv m

/-- Case (b) of R36 (R246): the running `ipc` becomes a copy of the line of ILAR `i[b]` at instruction `index`. -/
structure Jumps (s t : State) (b : IReg) (index : Nat) : Prop where
  rest : SameRest s t
  dlars : SameDlars s t
  mem : SameMem s t
  addr : t.pc = BitVec.ofNat 32 ((s.i b).addr.toNat / 128 * 128 + 4 * index)
  data : t.ipc.data = (s.i b).data
  tag : t.ipc.tag = s.ipc.tag
  ilars : ∀ k, k ≠ ipcOf s.mode → t.ilar k = s.ilar k
  iv : t.iv s.mode = true
  otherIv : ∀ m, m ≠ s.mode → t.iv m = s.iv m

/-! ### Data lines (R65 to R71) -/

/-- DLAR `k` holds line `b`: it is no `d0` and its base address is `b` (R65). -/
def State.HoldsLine (s : State) (b : LineNo) (k : PhysReg) : Prop := isZeroReg k = false ∧ lineOf (s.dlar k).addr = b

/-- A DLAR with some bytes of its data written: the dirty flag is set, the other bytes and fields stay (R66). -/
structure DataChanged (D E : Dlar) (p : Nat) (bs : List Byte) : Prop where
  addr : E.addr = D.addr
  type : E.type = D.type
  tag : E.tag = D.tag
  refCount : E.refCount = D.refCount
  dirty : E.dirty = true
  data : ∀ j, j < 128 → byteAt E.data j = if p ≤ j ∧ j < p + bs.length then bs.getD (j - p) 0 else byteAt D.data j

/-- Bytes are written into the line of DLAR `k`: every holder of the line sees them, no other DLAR changes, and nothing does
if `k` is a `d0` (R32, R65, R66). -/
structure LineWritten (s t : State) (k : PhysReg) (p : Nat) (bs : List Byte) : Prop where
  rest : SameRest s t
  ilars : SameIlars s t
  mem : SameMem s t
  holders : isZeroReg k = false → ∀ j, s.HoldsLine (lineOf (s.dlar k).addr) j → DataChanged (s.dlar j) (t.dlar j) p bs
  others : ∀ j, (isZeroReg k = true ∨ ¬ s.HoldsLine (lineOf (s.dlar k).addr) j) → t.dlar j = s.dlar j

/-- `z` is written into the scalar of `d[a]`, at its type (R27, R66, R120). -/
def ScalarWritten (s t : State) (a : DReg) (z : Int) : Prop :=
  LineWritten s t (s.reg a) (s.scalarPlace (s.typeOf a) a) (bytesOfInt s.config.byteOrder (s.typeOf a) z)

/-- `f k` is written into every element `k` of `d[a]`, at type `T` (R28, R66). -/
def VectorWritten (s t : State) (a : DReg) (T : Ty) (f : Nat → Int) : Prop :=
  LineWritten s t (s.reg a) 0 (bytesOfLanes s.config.byteOrder T f)

/-- `z` is written into element `e` of `d[n]`, at the register's own type (R66, R257). -/
def ElementWritten (s t : State) (n : DReg) (e : Nat) (z : Int) : Prop :=
  LineWritten s t (s.reg n) (e * (s.typeOf n).size) (bytesOfInt s.config.byteOrder (s.typeOf n) z)

/-- Only the type tag of `d[a]` is set, and not even that for a `d0` (R28, R32). -/
structure TypeSet (s t : State) (a : DReg) (T : Ty) : Prop where
  rest : SameRest s t
  ilars : SameIlars s t
  mem : SameMem s t
  reg : a ≠ 0 → t.dlar (s.reg a) = { s.d a with type := T }
  others : ∀ k, (k ≠ s.reg a ∨ a = 0) → t.dlar k = s.dlar k

/-- DLAR `k` is the lowest-numbered holder of line `b` other than DLAR `x` (R67). -/
def State.FirstOther (s : State) (b : LineNo) (x k : PhysReg) : Prop :=
  s.HoldsLine b k ∧ k ≠ x ∧ ∀ j, j < k → s.HoldsLine b j → j = x

/-- DLAR `k` is dirty and nothing else holds its line (R68). -/
def State.LastDirty (s : State) (k : PhysReg) : Prop :=
  (s.dlar k).dirty = true ∧ ∀ j, s.HoldsLine (lineOf (s.dlar k).addr) j → j = k

/-- Memory after DLAR `k` lets go of its line: written back if `k` was the last holder of a dirty line (R68). -/
def Released (s t : State) (k : PhysReg) : Prop :=
  (s.LastDirty k → ∀ a, t.mem.read a =
    if lineOf a = lineOf (s.dlar k).addr then byteAt (s.dlar k).data (offsetOf a) else s.mem.read a) ∧
  (¬ s.LastDirty k → SameMem s t)

/-- The line that is loaded: the data and dirty flag of the lowest-numbered other holder, else the line as it stands in
memory, clean (R67). -/
def LineObtained (s t : State) (k : PhysReg) (b : LineNo) : Prop :=
  (∃ x, s.FirstOther b k x ∧ (t.dlar k).data = (s.dlar x).data ∧ (t.dlar k).dirty = (s.dlar x).dirty) ∨
  ((∀ x, s.HoldsLine b x → x = k) ∧ (t.dlar k).dirty = false ∧
    ∀ j, j < 128 → byteAt (t.dlar k).data j = t.mem.read (lineAddr b j))

/-- `DLoad` (R67): DLAR `k`, no `d0`, gets an address, a type and the line of the address. -/
structure Loaded (s t : State) (k : PhysReg) (ea : Addr) (T : Ty) : Prop where
  rest : SameRest s t
  ilars : SameIlars s t
  others : ∀ j, (j ≠ k ∨ isZeroReg k = true) → t.dlar j = s.dlar j
  zero : isZeroReg k = true → SameMem s t
  addr : isZeroReg k = false → (t.dlar k).addr = ea
  type : isZeroReg k = false → (t.dlar k).type = T
  tag : (t.dlar k).tag = (s.dlar k).tag
  refCount : (t.dlar k).refCount = (s.dlar k).refCount
  same : isZeroReg k = false → lineOf (s.dlar k).addr = lineOf ea →
    (t.dlar k).data = (s.dlar k).data ∧ (t.dlar k).dirty = (s.dlar k).dirty ∧ SameMem s t
  new : isZeroReg k = false → lineOf (s.dlar k).addr ≠ lineOf ea → Released s t k ∧ LineObtained s t k (lineOf ea)

/-- `DataWrite` (R69): the bytes go into the line if some DLAR holds it, and then not into memory; else into memory. -/
structure Stored (s t : State) (ea : Addr) (bs : List Byte) : Prop where
  rest : SameRest s t
  ilars : SameIlars s t
  held : ∀ j, s.HoldsLine (lineOf ea) j → SameMem s t ∧ DataChanged (s.dlar j) (t.dlar j) (offsetOf ea) bs
  others : ∀ j, ¬ s.HoldsLine (lineOf ea) j → t.dlar j = s.dlar j
  unheld : (∀ j, ¬ s.HoldsLine (lineOf ea) j) → ∀ a, t.mem.read a =
    if (a - ea).toNat < bs.length then bs.getD (a - ea).toNat 0 else s.mem.read a

/-- `line_retag` (U5): DLAR `k`, no `d0`, has another address and type and the data it had, dirty; every other holder of the
line of that address has the same data, dirty; the line that `k` leaves is written back if `k` was its last holder. -/
structure Retagged (s t : State) (k : PhysReg) (ea : Addr) (T : Ty) : Prop where
  rest : SameRest s t
  ilars : SameIlars s t
  zero : isZeroReg k = true → SameDlars s t ∧ SameMem s t
  self : isZeroReg k = false → t.dlar k = { s.dlar k with addr := ea, type := T, dirty := true }
  holders : isZeroReg k = false → ∀ j, j ≠ k → s.HoldsLine (lineOf ea) j →
    t.dlar j = { s.dlar j with data := (s.dlar k).data, dirty := true }
  others : ∀ j, j ≠ k → ¬ s.HoldsLine (lineOf ea) j → t.dlar j = s.dlar j
  same : isZeroReg k = false → lineOf (s.dlar k).addr = lineOf ea → SameMem s t
  new : isZeroReg k = false → lineOf (s.dlar k).addr ≠ lineOf ea → Released s t k

/-- `DFlush` (R70): the line of DLAR `k` is in memory, and no holder of it is dirty. -/
structure Flushed (s t : State) (k : PhysReg) : Prop where
  rest : SameRest s t
  ilars : SameIlars s t
  mem : ∀ a, t.mem.read a =
    if isZeroReg k = false ∧ lineOf a = lineOf (s.dlar k).addr then byteAt (s.dlar k).data (offsetOf a) else s.mem.read a
  dlars : ∀ j, t.dlar j = if isZeroReg k = false ∧ isZeroReg j = false ∧ lineOf (s.dlar j).addr = lineOf (s.dlar k).addr
    then { s.dlar j with dirty := false } else s.dlar j

/-- `DReload` (R71): every holder of the line of DLAR `k` has the line as it stands in memory, clean. -/
structure Reloaded (s t : State) (k : PhysReg) : Prop where
  rest : SameRest s t
  ilars : SameIlars s t
  mem : SameMem s t
  holders : isZeroReg k = false → ∀ j, s.HoldsLine (lineOf (s.dlar k).addr) j →
    t.dlar j = { s.dlar j with data := (t.dlar j).data, dirty := false } ∧
      ∀ i, i < 128 → byteAt (t.dlar j).data i = s.mem.read (lineAddr (lineOf (s.dlar k).addr) i)
  others : ∀ j, (isZeroReg k = true ∨ ¬ s.HoldsLine (lineOf (s.dlar k).addr) j) → t.dlar j = s.dlar j

/-! ### Instruction lines (R72 to R74) -/

/-- ILAR `k`, no `i0`, other than `x`, has the line `b`; an `ipc` has its line only while its `iv` bit is 1 (R72). -/
def State.HasInstrLine (s : State) (b : LineNo) (x k : PhysReg) : Prop :=
  isZeroReg k = false ∧ k ≠ x ∧ (∀ m, k = ipcOf m → s.iv m = true) ∧ lineOf (s.ilar k).addr = b

/-- `l` is the line `b` as `IFill` gets it for ILAR `x`: from the lowest-numbered other ILAR that has it, else from memory
(R72, R73). -/
def State.InstrLineIs (s : State) (b : LineNo) (x : PhysReg) (l : Line) : Prop :=
  (∃ k, s.HasInstrLine b x k ∧ (∀ j, j < k → ¬ s.HasInstrLine b x j) ∧ l = (s.ilar k).data) ∨
  ((∀ k, ¬ s.HasInstrLine b x k) ∧ ∀ j, j < 128 → byteAt l j = s.mem.read (lineAddr b j))

/-- `IFill` (R73): ILAR `k`, no `i0`, gets an address with its low two bits cleared and the line of it; the `iv` bit of a
mode becomes 1 if `k` is its `ipc`. -/
structure Filled (s t : State) (k : PhysReg) (a : Addr) : Prop where
  rest : SameRest s t
  dlars : SameDlars s t
  mem : SameMem s t
  others : ∀ j, (j ≠ k ∨ isZeroReg k = true) → t.ilar j = s.ilar j
  addr : isZeroReg k = false → (t.ilar k).addr = BitVec.ofNat 32 (a.toNat / 4 * 4)
  data : isZeroReg k = false → s.InstrLineIs (lineOf a) k (t.ilar k).data
  tag : (t.ilar k).tag = (s.ilar k).tag
  iv : ∀ m, t.iv m = (s.iv m || decide (k = ipcOf m))

/-- `IReload` (R74): ILAR `k`, no `i0`, has its line as it stands in memory, at the same address; no other ILAR changes. -/
structure InstrReloaded (s t : State) (k : PhysReg) : Prop where
  rest : SameRest s t
  dlars : SameDlars s t
  mem : SameMem s t
  others : ∀ j, (j ≠ k ∨ isZeroReg k = true) → t.ilar j = s.ilar j
  addr : (t.ilar k).addr = (s.ilar k).addr
  data : isZeroReg k = false → ∀ j, j < 128 →
    byteAt (t.ilar k).data j = s.mem.read (lineAddr (lineOf (s.ilar k).addr) j)
  tag : (t.ilar k).tag = (s.ilar k).tag
  iv : ∀ m, t.iv m = (s.iv m || decide (k = ipcOf m))

/-- Effects made one after the other, in the order of a list. -/
inductive InOrder {α : Type} (effect : State → State → α → Prop) : State → List α → State → Prop where
  | done (s : State) : InOrder effect s [] s
  | step {s t u : State} {x : α} {xs : List α} : effect s t x → InOrder effect t xs u → InOrder effect s (x :: xs) u

/-! ### Returning (R247) -/

/-- The return to user mode: nothing else changes but `ie`, which is given. -/
structure ReturnsToUser (s t : State) (ie : Bool) : Prop where
  rest : SameRest { s with mode := .user, ie := ie } t
  dlars : SameDlars s t
  ilars : SameIlars s t
  mem : SameMem s t

/-! ### Exceptions (R330) -/

/-- Supervisor mode is entered with exception `c`, steps 2 to 5 of R330: `xct` is `c`, `ie` is cleared by an interrupt only,
the supervisor `ipc` is at address 0 with line 0, and nothing is saved. -/
structure Entered (s t : State) (c : BitVec 32) : Prop where
  rest : SameRest { s with xct := c, mode := .supervisor, ie := if c = 0 then false else s.ie } t
  dlars : SameDlars s t
  mem : SameMem s t
  addr : (t.ilar 127).addr = 0
  data : s.InstrLineIs 0 127 (t.ilar 127).data
  tag : (t.ilar 127).tag = (s.ilar 127).tag
  ilars : ∀ k, k ≠ 127 → t.ilar k = s.ilar k
  ivSupervisor : t.ivSupervisor = true
  ivUser : t.ivUser = s.ivUser

/-- An instruction raises exception `c` and has no other effect (R330, R331): in user mode the user `ipc` is first moved to
the following instruction. -/
def Raises (s t : State) (c : BitVec 32) : Prop :=
  match s.mode with
  | .user => ∃ u, FallsThrough s u ∧ Entered u t c
  | .supervisor => Entered s t c

/-! ### Steps -/

/-- `u` is `s` with the line `l` in the running `ipc` and its `iv` bit set (R36 step 2). -/
structure LineTaken (s u : State) (l : Line) : Prop where
  rest : SameRest s u
  dlars : SameDlars s u
  mem : SameMem s u
  ipc : u.ilar (ipcOf s.mode) = { s.ipc with data := l }
  ilars : ∀ k, k ≠ ipcOf s.mode → u.ilar k = s.ilar k
  iv : u.iv s.mode = true
  otherIv : ∀ m, m ≠ s.mode → u.iv m = s.iv m

/-- A step from `s` that takes no interrupt runs the word `i`: the word at the running `ipc`, whose line, if it was still to
be found, is that of another ILAR (R36). -/
def Runs (s : State) (i : Instr) : Prop :=
  s.interruptDue = false ∧
  ((s.iv s.mode = true ∧ s.decoded = .ok i) ∨
   (s.iv s.mode = false ∧ ∃ l u, s.ilookup (lineOf s.pc) (ipcOf s.mode) = some l ∧ u = s.withLine l ∧ u.decoded = .ok i))

/-! ### Results

What an instruction that completes does: each of these says that `exec` answers a next state, and which. -/

/-- The instruction writes `z` into the scalar of `d[a]`, at the type of `d[a]`, and falls through (R120, R150). -/
def GivesScalar (s : State) (i : Instr) (a : DReg) (z : Int) : Prop :=
  ∃ u t, exec i s = .next t ∧ ScalarWritten s u a z ∧ FallsThrough u t

/-- The instruction writes `f k` into every element `k` of `d[a]`, at the type of `d[a]`, and falls through (R120). -/
def GivesVector (s : State) (i : Instr) (a : DReg) (f : Nat → Int) : Prop :=
  ∃ u t, exec i s = .next t ∧ VectorWritten s u a (s.typeOf a) f ∧ FallsThrough u t

/-- The instruction loads `d[a]` with an address, a type and the line of the address, and falls through (R165). -/
def GivesLoad (s : State) (i : Instr) (a : DReg) (ea : Addr) (T : Ty) : Prop :=
  ∃ u t, exec i s = .next t ∧ Loaded s u (s.reg a) ea T ∧ FallsThrough u t

/-- The instruction sets the type of `d[a]` and falls through; between the two, at an address computed with the type set, it
stores the bytes of the scalar of `d[a]` in memory or in a held line (`STORE_MODE = scalar_write`, R200), or makes the line of
`d[a]` the line of that address (`line_retag`, U5). -/
def GivesStore (s : State) (i : Instr) (a b : DReg) (imm : Int) (T : Ty) : Prop :=
  ∃ v u t, exec i s = .next t ∧ TypeSet s v a T ∧
    (match s.config.storeMode with
      | .scalarWrite => Stored v u (BitVec.ofNat 32 (alignNat T (BitVec.ofInt 32 ((v.scalar b).val + imm)).toNat))
          (v.dataBytes a (v.scalarPlace T a) T.size)
      | .lineRetag => Retagged v u (v.reg a) (BitVec.ofInt 32 ((v.scalar b).val + imm)) T) ∧
    FallsThrough u t

/-- The instruction raises exception `c`, with no other effect (R331). -/
def GivesException (s : State) (i : Instr) (c : BitVec 32) : Prop := ∃ t, exec i s = .next t ∧ Raises s t c

/-- A Group 9 instruction may name the bank: the supervisor's is open to supervisor mode only (R255). -/
def BankOpen (m bank : Mode) : Prop := m = .supervisor ∨ bank = .user

/-! ### Invariants and runs -/

/-- `d0` and `i0` of both banks hold zero in the register files themselves (R32, R34). -/
def State.zeroRegs (s : State) : Prop :=
  s.dlars[0] = zeroDlar ∧ s.dlars[64] = zeroDlar ∧ s.ilars[0] = zeroIlar ∧ s.ilars[64] = zeroIlar

/-- Every ILAR's address is a multiple of 4 (R33). -/
def State.ilarsAligned (s : State) : Prop := ∀ k, (s.ilar k).addr.toNat % 4 = 0

/-- DLARs that hold the same line have the same data and the same dirty flag (R65, R66). -/
def State.shared (s : State) : Prop :=
  ∀ b j k, s.HoldsLine b j → s.HoldsLine b k →
    (s.dlar j).data = (s.dlar k).data ∧ (s.dlar j).dirty = (s.dlar k).dirty

/-- A line that is held and not dirty is as it is in memory (R30). -/
def State.cleanLines (s : State) : Prop :=
  ∀ b k, s.HoldsLine b k → (s.dlar k).dirty = false →
    ∀ j, j < 128 → byteAt (s.dlar k).data j = s.mem.read (lineAddr b j)

/-- `t` is reached from `s` by `n` steps, none of which faults or is refused: a safe run. -/
inductive SafeRun : Nat → State → State → Prop where
  | none (s : State) : SafeRun 0 s s
  | more {n : Nat} {s t u : State} : SafeRun n s t → step t = .next u → SafeRun (n + 1) s u

end Sys2Proof.Machine
end

