-- ==== Sys2Proof/Certificates/Slice0/Obligations.lean ====
section
/-! DEFINITION. The statements for the provers. Each docstring says which rules the statement formalises and which of the
spec's own decisions, or of this model's, it rests on. -/

open Sys2Proof Sys2Proof.Machine

/-- Decoding the encoding of a well-formed instruction gives the instruction back. For every well-formed instruction
the decoder reads the encoder's word as that instruction, and so it does from the word's four bytes in either byte
order. No operand bit is lost at any value the fields admit. Derived from R90, R91, R92, R93, R94, R95, R96, R97,
R98, R103. -/
def Obligations.DecodeOfEncode : Prop :=
  ∀ i : Instr, i.wellFormed = true →
    decode (encode i) = .ok i ∧ ∀ order, decodeBytes order (wordBytes order (encode i)) = .ok i

/-- A word that decodes to an instruction is the encoding of that instruction, which is well-formed. Every word that
the decoder accepts is exactly the encoder's word for the instruction it stands for, and that instruction is well-
formed: no two words share an instruction, no bit of an accepted word is ignored (a word with a nonzero literal-zero
bit or unused field is not accepted: the spec's decision D12, log entry 11). Derived from R105, R106. -/
def Obligations.EncodeOfDecode : Prop :=
  ∀ (w : Word) (i : Instr), decode w = .ok i → i.wellFormed = true ∧ encode i = w

/-- The undefined words are those of groups 12 to 15 and of the reserved opcodes. A word is an undefined instruction
exactly when its group is 12 to 15 or its opcode is one that rule R104 lists for its group. That these words, and no
others, are undefined is the spec's decision D11. Derived from R104. -/
def Obligations.UndefinedWordsAreTheReservedOnes : Prop :=
  ∀ w : Word, decode w = .undefined ↔
    (12 ≤ field w 31 28 ∨
     (field w 31 28 = 1 ∧ 7 ≤ field w 3 0) ∨
     (2 ≤ field w 31 28 ∧ field w 31 28 ≤ 6 ∧ 8 ≤ field w 3 0) ∨
     (field w 31 28 = 8 ∧ 5 ≤ field w 3 0) ∨
     (field w 31 28 = 10 ∧ 13 ≤ field w 3 0) ∨
     (field w 31 28 = 11 ∧ ((8 ≤ field w 4 0 ∧ field w 4 0 ≤ 15) ∨ 24 ≤ field w 4 0)))

/-- A word of every group, as the spec prints it, decodes to the instruction it stands for. One word of each of the
twelve groups, with the value the spec prints for it, decodes to the instruction the spec prints beside it. Derived
from R103, R166, R174, R231, R232, R241, R258, R277, R288, R296. -/
def Obligations.PrintedWordsDecode : Prop :=
  decode 0x00420C4E = .ok (.divS 1 2 3 4) ∧ decode 0x10420001 = .ok (.mulR 1 2) ∧
    decode 0x20420100 = .ok (.ldu8i 1 2 16) ∧ decode 0x3042FFC0 = .ok (.ldu8iAddr 1 2 (-4)) ∧
    decode 0x40420C05 = .ok (.lds32 1 2 3) ∧ decode 0x50420085 = .ok (.sts32i 1 2 8) ∧
    decode 0x60420004 = .ok (.dpu32 1 2) ∧ decode 0x70400806 = .ok (.fetchReg 1 0 2 3) ∧
    decode 0x707F0401 = .ok (.fetchImm 1 63 32 0) ∧ decode 0x80420CE0 = .ok (.selS 1 2 3 7) ∧
    decode 0x90420048 = .ok (.getaddrsS 1 2 4) ∧ decode 0xA0400001 = .ok (.cpyToIe 1) ∧
    decode 0xA0420C4C = .ok (.swi 1 2 3 4) ∧ decode 0xB0420C20 = .ok (.inu8V 1 2 3)

/-- isimm11 is bits [15:5], shifted left by two and sign-extended. Where a word decodes to a fetch with an immediate
displacement, the displacement that the fetch adds, four times isimm11, is bits [15:5] of the word with two zero
bits appended, sign-extended to 32 bits; it is a multiple of 4 from -4096 to 4092. Stated in R98. -/
def Obligations.FetchDisplacementIsSignExtended : Prop :=
  ∀ (w : Word) (a b : IReg) (imm : Int) (j : Nat), decode w = .ok (.fetchImm a b imm j) →
    BitVec.ofInt 32 (4 * imm) = (w.extractLsb' 5 11 ++ 0#2).signExtend 32 ∧ -4096 ≤ 4 * imm ∧ 4 * imm ≤ 4092

/-- After reset: supervisor mode, its ipc at address 0 with memory line 0, d0 and i0 zero. The machine after reset
is in supervisor mode; the supervisor ipc addresses 0 and holds the 128 bytes of memory line 0; iv[S] is 1 and iv[U]
is 0; every d0 and i0 is all zero. (The ipc data and iv[U] are the spec's decisions D18 and D29.) Derived from R46,
R360. -/
def Obligations.ResetLeavesWhatTheSpecGives : Prop :=
  State.reset.mode = .supervisor ∧ State.reset.pc = 0 ∧
    (∀ j, j < 128 → byteAt State.reset.ipc.data j = State.reset.mem.read (lineAddr 0 j)) ∧
    State.reset.ivSupervisor = true ∧ State.reset.ivUser = false ∧
    ∀ k, isZeroReg k = true → State.reset.dlar k = zeroDlar ∧ State.reset.ilar k = zeroIlar

/-- The state after reset meets every invariant that a step keeps. The state after reset has memory in canonical
form, every ILAR address a multiple of 4, the zero registers zero, DLARs of one line equal, and clean lines as
memory has them. The launch values this uses are the model's (log entries 2 and 5). Derived from R30, R33, R46, R65. -/
def Obligations.ResetMeetsTheInvariants : Prop :=
  State.reset.mem.wf = true ∧ State.reset.ilarsAligned ∧ State.reset.zeroRegs ∧ State.reset.shared ∧ State.reset.cleanLines

/-- Every step keeps memory in its canonical form. From any state whose memory is in canonical form (addresses
strictly rising and below 2^32, no cell equal to what an unlisted address reads as), a step that answers a next
state leaves it so. The form is the model's; it makes equal memories equal data. Derived from R61. -/
def Obligations.StepKeepsMemoryForm : Prop :=
  ∀ s t : State, s.mem.wf = true → step s = .next t → t.mem.wf = true

/-- Every step keeps the address of every ILAR a multiple of 4. From any state in which the address of every ILAR of
both banks is a multiple of 4, a step that answers a next state leaves it so: the program counters stay aligned.
That the low two bits are always zero is the spec's own derivation. Derived from R33, R35. -/
def Obligations.StepKeepsInstructionAddressesAligned : Prop :=
  ∀ s t : State, s.ilarsAligned → step s = .next t → t.ilarsAligned

/-- No step changes d0 or i0 of either bank. From any state in whose register files d0 and i0 of both banks are all
zero, a step that answers a next state leaves them so: writes to them change nothing. Derived from R32, R34. -/
def Obligations.StepKeepsZeroRegisters : Prop :=
  ∀ s t : State, s.zeroRegs → step s = .next t → t.zeroRegs

/-- Every step keeps the DLARs of one line equal in data and dirty flag. From any state in which DLARs (no d0) whose
addresses lie in one line have the same data and the same dirty flag, across both banks, a step that answers a next
state leaves it so. Sharing is the spec's decision D13. Derived from R65, R66, R67. -/
def Obligations.StepKeepsSharing : Prop :=
  ∀ s t : State, s.shared → step s = .next t → t.shared

/-- Every step keeps a line that is held and not dirty equal to memory. From any state with memory in canonical
form, in which lines are shared and a held line that is not dirty is as it is in memory, a step that answers a next
state leaves all three so: the dirty flag means what rule R30 says (decision D14). Derived from R30, R66, R67, R68,
R69, R70, R71. -/
def Obligations.StepKeepsCleanLines : Prop :=
  ∀ s t : State, s.mem.wf = true → s.shared → s.cleanLines → step s = .next t →
    t.mem.wf = true ∧ t.shared ∧ t.cleanLines

/-- A step runs the instruction that the bytes at the running ipc decode to. When no interrupt is taken, the line of
the running ipc has been found, and the four bytes of it at the program counter decode to a well-formed instruction,
the step is exec of that instruction at that state, the model's step number and interrupt script moved on by one.
Derived from R35, R36, R60. -/
def Obligations.StepRunsTheDecodedInstruction : Prop :=
  ∀ (s : State) (i : Instr), (s.ie = false ∨ s.irq = false) → s.iv s.mode = true → i.wellFormed = true →
    decodeBytes s.config.byteOrder ((List.range 4).map fun j => byteAt s.ipc.data (4 * (s.pc.toNat % 128 / 4) + j)) = .ok i →
    step s = exec i { s with steps := s.steps + 1, irqScript := s.irqScript.tail }

/-- An ipc whose line is still to be found takes it from the first ILAR that has it, then runs. When no interrupt is
taken, the iv bit of the running mode is 0, and k is the lowest-numbered ILAR other than the ipc that has the line
of the program counter, the step is the step of the state in which the ipc has that line and its iv bit is 1, and
nothing else is changed. (The iv bit and the order of the search are the spec's decisions D17 and D19.) Derived from
R36, R37, R72. -/
def Obligations.MissingLineComesFromAnotherIlar : Prop :=
  ∀ (s : State) (k : PhysReg), (s.ie = false ∨ s.irq = false) → s.iv s.mode = false →
    s.HasInstrLine (lineOf s.pc) (ipcOf s.mode) k →
    (∀ j, j < k → ¬ s.HasInstrLine (lineOf s.pc) (ipcOf s.mode) j) →
    ∃ u, LineTaken s u (s.ilar k).data ∧ step s = step u

/-- With ie set and the request asserted the step enters supervisor mode with type 0 and clears ie. When ie is 1 and
the environment asserts the interrupt request, in either mode, the step takes the interrupt: xct is 0, ie is 0, the
mode is supervisor, the supervisor ipc is at address 0 with line 0, nothing is saved and no instruction runs. That
the request is sampled so is the spec's decision D22; when it comes is the model's script or free value (log entry
3). Derived from R36, R330, R333, R340. -/
def Obligations.InterruptIsTakenFirst : Prop :=
  ∀ s : State, s.ie = true → s.irq = true →
    ∃ t, step s = .next t ∧ Entered { s with steps := s.steps + 1, irqScript := s.irqScript.tail } t 0x0

/-- A line that no ILAR has is exception 0x15 in user mode and a fault in supervisor mode. When no interrupt is
taken, the iv bit of the running mode is 0 and no other ILAR has the line of the program counter: in user mode the
step enters supervisor mode with exception 0x15, the user ipc keeping its address; in supervisor mode the machine
faults (decision D19, SUPERVISOR_IMISS; log entry 15). Derived from R36, R37, R330. -/
def Obligations.LineInNoIlarIsAMiss : Prop :=
  ∀ s : State, (s.ie = false ∨ s.irq = false) → s.iv s.mode = false →
    (∀ k, ¬ s.HasInstrLine (lineOf s.pc) (ipcOf s.mode) k) →
    (s.mode = .user →
      ∃ t, step s = .next t ∧ Entered { s with steps := s.steps + 1, irqScript := s.irqScript.tail } t 0x15) ∧
    (s.mode = .supervisor → step s = .fault .supervisorImiss)

/-- An undefined word raises exception 0x2; a word with a nonzero unused bit is refused. When no interrupt is taken
and the line of the running ipc has been found: if the word at the program counter is undefined, the step raises
exception 0x2 with no other effect; if the decoder rejects it, the step is refused by name (decisions D11 and D12;
log entry 11). Derived from R36, R104, R105, R106, R331. -/
def Obligations.UndefinedWordRaisesExceptionTwo : Prop :=
  ∀ s : State, (s.ie = false ∨ s.irq = false) → s.iv s.mode = true →
    (decodeBytes s.config.byteOrder ((List.range 4).map fun j => byteAt s.ipc.data (4 * (s.pc.toNat % 128 / 4) + j)) =
      .undefined →
      ∃ t, step s = .next t ∧ Raises { s with steps := s.steps + 1, irqScript := s.irqScript.tail } t 0x2) ∧
    ∀ why, decodeBytes s.config.byteOrder
        ((List.range 4).map fun j => byteAt s.ipc.data (4 * (s.pc.toNat % 128 / 4) + j)) = .rejected why →
      step s = .refused (.rejectedWord why)

/-- Supervisor mode is left only by a reti or retx whose condition is nonzero. If a step takes the machine from
supervisor mode to user mode, then it took no interrupt and ran a reti or a retx, scalar with a nonzero scalar or
vector with a nonzero vector (the vector condition is read as in decision D38). Derived from R20, R240, R244, R245,
R345. -/
def Obligations.OnlyReturnsLeaveSupervisorMode : Prop :=
  ∀ s t : State, s.mode = .supervisor → step s = .next t → t.mode = .user →
    ∃ a i, Runs s i ∧
      ((i ∈ [Instr.retiS a, Instr.retxS a] ∧ s.NonZeroScalar a) ∨ (i ∈ [Instr.retiV a, Instr.retxV a] ∧ s.NonZeroVector a))

/-- xct changes only by an entry to supervisor mode, or by cpy.s xct, dA in supervisor mode. If a step changes xct,
then either it entered supervisor mode, the new value is a code from 0x0 to 0x15 and the program counter is 0, or it
ran cpy.s xct, dA in supervisor mode. Derived from R41, R275, R320, R321, R330. -/
def Obligations.ExceptionTypeIsWrittenOnlyOnEntry : Prop :=
  ∀ s t : State, step s = .next t → t.xct ≠ s.xct →
    (t.mode = .supervisor ∧ t.xct.toNat ≤ 0x15 ∧ t.pc = 0) ∨ (s.mode = .supervisor ∧ ∃ a, Runs s (.cpyToXct a))

/-- A step from user mode leaves the supervisor's registers and the control registers alone. A step from user mode
that answers a next state leaves the address, type, tag and reference count of every supervisor DLAR and every
supervisor ILAR but the ipc as they were. If the machine is still in user mode, the supervisor ipc with its iv bit,
ie, xct and the four swiarg registers are also as they were. (A supervisor DLAR's data may change: lines are shared,
R65.) Derived from R22, R255, R345. -/
def Obligations.UserModeCannotTouchSupervisorRegisters : Prop :=
  ∀ s t : State, s.mode = .user → step s = .next t →
    (∀ k : PhysReg, 64 ≤ k.val → (t.dlar k).addr = (s.dlar k).addr ∧ (t.dlar k).type = (s.dlar k).type ∧
      (t.dlar k).tag = (s.dlar k).tag ∧ (t.dlar k).refCount = (s.dlar k).refCount) ∧
    (∀ k : PhysReg, 64 ≤ k.val → k ≠ 127 → t.ilar k = s.ilar k) ∧
    (t.mode = .user → t.ilar 127 = s.ilar 127 ∧ t.ivSupervisor = s.ivSupervisor ∧ t.ie = s.ie ∧ t.xct = s.xct ∧
      t.swiarg0 = s.swiarg0 ∧ t.swiarg1 = s.swiarg1 ∧ t.swiarg2 = s.swiarg2 ∧ t.swiarg3 = s.swiarg3)

/-- A step makes at most one access to IO space, and only an instruction of Group 11 makes one. A step that answers
a next state keeps the log of IO accesses and adds at most one access to it; if it adds one, it ran an instruction
whose word is of Group 11. The log is the model's (log entry 20). The parameters of the implementation (byte order,
STORE_MODE) never change. Derived from R44, R60, R81, R295. -/
def Obligations.IoSpaceIsReachedByGroupElevenOnly : Prop :=
  ∀ s t : State, step s = .next t → t.config = s.config ∧
    (t.ioLog = s.ioLog ∨ ∃ e i, t.ioLog = s.ioLog ++ [e] ∧ Runs s i ∧ field (encode i) 31 28 = 11)

/-- Bytes denote numbers by the byte order: elements as read, values as written, instruction words. Bytes b_0, ...,
b_(n-1) in address order denote the sum of b_j * 256^j where the byte order is little, and of b_j * 256^(n-1-j)
where it is big. The scalar of a DLAR is the integer, signed or unsigned by its type, that the size(T) bytes at its
offset aligned to the type denote; element k of its vector that of the bytes from k * size(T) on. The bytes written
for an integer at a type are size(T) bytes that denote its pattern; four bytes decode as the word they denote. The
alignment of the offset is decision D30; the byte order is a parameter (D1, log entry 1). Derived from R7, R8, R27,
R28, R60. -/
def Obligations.ElementsAreReadInByteOrder : Prop :=
  (∀ (s : State) (n : DReg),
      (s.scalar n).val = wrapTo (s.typeOf n)
        (denoted s.config.byteOrder (s.dataBytes n (s.scalarPlace (s.typeOf n) n) (s.typeOf n).size)) ∧
      ∀ k, k < (s.typeOf n).lanes → (s.lane n k).val = wrapTo (s.typeOf n)
        (denoted s.config.byteOrder (s.dataBytes n (k * (s.typeOf n).size) (s.typeOf n).size))) ∧
    (∀ (order : ByteOrder) (T : Ty) (z : Int),
      (bytesOfInt order T z).length = T.size ∧ denoted order (bytesOfInt order T z) = patternOf T z) ∧
    ∀ (order : ByteOrder) (b0 b1 b2 b3 : Byte),
      decodeBytes order [b0, b1, b2, b3] = decode (BitVec.ofNat 32 (denoted order [b0, b1, b2, b3]))

/-- A stream starts at element 0 of its first DLAR, uses up each DLAR, and ends at number 63. A stream of n elements
that starts at DLAR a has n places; the first is element 0 of a; after the last element of a DLAR, at its own type,
comes element 0 of the next DLAR, else the next element of the same. There is no such stream exactly when the DLARs
from a to number 63 have fewer than n elements. (Decision D26.) Derived from R257. -/
def Obligations.StreamsWalkElementByElement : Prop :=
  ∀ (s : State) (a : DReg) (n : Nat),
    (∀ slots, s.stream a n = some slots → slots.length = n ∧ (∀ x, slots[0]? = some x → x = (a, 0)) ∧
      ∀ (j : Nat) x y, slots[j]? = some x → slots[j + 1]? = some y →
        if x.2 + 1 = (s.typeOf x.1).lanes then y.1.val = x.1.val + 1 ∧ y.2 = 0 else y.1 = x.1 ∧ y.2 = x.2 + 1) ∧
    (s.stream a n = none ↔
      ((List.range (64 - a.val)).map fun k => (s.typeOf (a + Fin.ofNat 64 k)).lanes).sum < n)

/-- add, sub, slt: the sum, the difference, the signed or unsigned comparison, at the type of dA. For add, sub and
slt, scalar and vector: the instruction answers a next state in which dA's scalar, or every element of dA, is the
sum, the difference, or 1 if the first is less than the second and else 0, of the sources cast to dA's type, modulo
2^w; every holder of dA's line sees it and is dirty; the ipc advances and nothing else changes. A vector form needs
sources with elements of dA's size. Sources are cast to dA's type first (decision D4); element sizes that differ are
refused (D5, log entry 10). Derived from R120, R122, R123, R124, R138. -/
def Obligations.AddSubSltResult : Prop :=
  ∀ (s : State) (a b c : DReg),
    (∀ p ∈ ([(.addS a b c, fun x y => x + y), (.subS a b c, fun x y => x - y),
        (.sltS a b c, fun x y => if x < y then 1 else 0)] : List (Instr × (Int → Int → Int))),
      GivesScalar s p.1 a (p.2 (s.scalarVal (s.typeOf a) b) (s.scalarVal (s.typeOf a) c))) ∧
    (s.SameSize a [b, c] →
      ∀ p ∈ ([(.addV a b c, fun x y => x + y), (.subV a b c, fun x y => x - y),
        (.sltV a b c, fun x y => if x < y then 1 else 0)] : List (Instr × (Int → Int → Int))),
      GivesVector s p.1 a fun k => p.2 (s.laneVal (s.typeOf a) b k) (s.laneVal (s.typeOf a) c k))

/-- and, or, xor: the bitwise combination of the patterns of the sources at the type of dA. For and, or and xor,
scalar and vector: the instruction answers a next state in which dA's scalar, or every element of dA, has as its
pattern the bitwise combination of the patterns of the sources cast to dA's type, 64-bit types included; the ipc
advances and nothing else changes. Sources are cast to dA's type first (decision D4); element sizes that differ are
refused (D5, log entry 10). Derived from R120, R126, R127, R128, R138. -/
def Obligations.AndOrXorResult : Prop :=
  ∀ (s : State) (a b c : DReg),
    (∀ p ∈ ([(.andS a b c, fun x y => x &&& y), (.orS a b c, fun x y => x ||| y),
        (.xorS a b c, fun x y => x ^^^ y)] : List (Instr × (Nat → Nat → Nat))),
      GivesScalar s p.1 a (p.2 (patternOf (s.typeOf a) (s.scalar b).val) (patternOf (s.typeOf a) (s.scalar c).val) : Nat)) ∧
    (s.SameSize a [b, c] →
      ∀ p ∈ ([(.andV a b c, fun x y => x &&& y), (.orV a b c, fun x y => x ||| y),
        (.xorV a b c, fun x y => x ^^^ y)] : List (Instr × (Nat → Nat → Nat))),
      GivesVector s p.1 a fun k =>
        (p.2 (patternOf (s.typeOf a) (s.lane b k).val) (patternOf (s.typeOf a) (s.lane c k).val) : Nat))

/-- mul: the product modulo 2^w, where neither source is of a 64-bit type. For mul, scalar and vector, with no
source of a 64-bit type: the instruction answers a next state in which dA's scalar, or every element of dA, is the
product of the sources cast to dA's type, modulo 2^w; the ipc advances and nothing else changes. Sources are cast to
dA's type first (decision D4); element sizes that differ are refused (D5, log entry 10). Derived from R120, R121,
R125, R138. -/
def Obligations.MulResult : Prop :=
  ∀ (s : State) (a b c : DReg), s.No64 [b, c] →
    GivesScalar s (.mulS a b c) a (s.scalarVal (s.typeOf a) b * s.scalarVal (s.typeOf a) c) ∧
    (s.SameSize a [b, c] →
      GivesVector s (.mulV a b c) a fun k => s.laneVal (s.typeOf a) b k * s.laneVal (s.typeOf a) c k)

/-- shl and shr: times 2^n, or divided by 2^n rounding down, for any count n. For shl and shr, scalar and vector,
with no operand of a 64-bit type: the instruction answers a next state in which dA's scalar, or every element of dA,
is the first source cast to dA's type, times 2^n or divided by 2^n rounding down, with n the pattern of the second
source at dA's type read as an unsigned number, however large (decision D8); the ipc advances and nothing else
changes. Sources are cast to dA's type first (decision D4); element sizes that differ are refused (D5, log entry
10). Derived from R120, R121, R129, R130, R138. -/
def Obligations.ShiftResult : Prop :=
  ∀ (s : State) (a b c : DReg), s.No64 [a, b, c] →
    (∀ p ∈ ([(.shlS a b c, fun x n => x * 2 ^ n), (.shrS a b c, fun x n => x / 2 ^ n)] : List (Instr × (Int → Nat → Int))),
      GivesScalar s p.1 a (p.2 (s.scalarVal (s.typeOf a) b) (patternOf (s.typeOf a) (s.scalar c).val))) ∧
    (s.SameSize a [b, c] →
      ∀ p ∈ ([(.shlV a b c, fun x n => x * 2 ^ n), (.shrV a b c, fun x n => x / 2 ^ n)] : List (Instr × (Int → Nat → Int))),
      GivesVector s p.1 a fun k => p.2 (s.laneVal (s.typeOf a) b k) (patternOf (s.typeOf a) (s.lane c k).val))

/-- rol and ror: the pattern rotated by the count modulo the width. For rol and ror, scalar and vector, with no
operand of a 64-bit type: the instruction answers a next state in which dA's scalar, or every element of dA, has the
pattern of the first source at dA's type rotated left or right by r, the pattern of the second source at dA's type
modulo the width w; the bits that leave one end enter at the other; the ipc advances and nothing else changes.
Sources are cast to dA's type first (decision D4); element sizes that differ are refused (D5, log entry 10). Derived
from R120, R121, R131, R132, R138. -/
def Obligations.RotateResult : Prop :=
  ∀ (s : State) (a b c : DReg), s.No64 [a, b, c] →
    (∀ p ∈ ([(.rolS a b c, fun w x r => x * 2 ^ r + x / 2 ^ (w - r)),
        (.rorS a b c, fun w x r => x / 2 ^ r + x * 2 ^ (w - r))] : List (Instr × (Nat → Nat → Nat → Nat))),
      GivesScalar s p.1 a (p.2 (s.typeOf a).width (patternOf (s.typeOf a) (s.scalar b).val)
        (patternOf (s.typeOf a) (s.scalar c).val % (s.typeOf a).width) : Nat)) ∧
    (s.SameSize a [b, c] →
      ∀ p ∈ ([(.rolV a b c, fun w x r => x * 2 ^ r + x / 2 ^ (w - r)),
        (.rorV a b c, fun w x r => x / 2 ^ r + x * 2 ^ (w - r))] : List (Instr × (Nat → Nat → Nat → Nat))),
      GivesVector s p.1 a fun k => (p.2 (s.typeOf a).width (patternOf (s.typeOf a) (s.lane b k).val)
        (patternOf (s.typeOf a) (s.lane c k).val % (s.typeOf a).width) : Nat))

/-- add and shl with dB.addr or iB.addr: the aligned address is the first source of every element. For add and shl
with dB.addr (no dA or dC of a 64-bit type) and add with iB.addr, scalar and vector: the instruction answers a next
state in which dA's scalar, or every element of dA, is the sum or the shift of the address of dB, aligned to dB's
type, or of iB, aligned to four, cast from u32 to dA's type, and dC cast to dA's type; dB's data and size play no
part; the ipc advances and nothing else changes. Sources are cast to dA's type first (decision D4); element sizes
that differ are refused (D5, log entry 10). Derived from R9, R120, R121, R133, R134, R135, R138, R139. -/
def Obligations.AddressOperandResult : Prop :=
  ∀ (s : State) (a b c : DReg) (i : IReg),
    (s.No64 [a, c] →
      ∀ p ∈ ([(.addAddrS a b c, .addAddrV a b c, fun x y => x + y),
        (.shlAddrS a b c, .shlAddrV a b c, fun x y => x * 2 ^ patternOf (s.typeOf a) y)] :
          List (Instr × Instr × (Int → Int → Int))),
      GivesScalar s p.1 a (p.2.2 (wrapTo (s.typeOf a) (alignNat (s.typeOf b) (s.d b).addr.toNat : Nat))
        (s.scalarVal (s.typeOf a) c)) ∧
      (s.SameSize a [c] → GivesVector s p.2.1 a fun k =>
        p.2.2 (wrapTo (s.typeOf a) (alignNat (s.typeOf b) (s.d b).addr.toNat : Nat)) (s.laneVal (s.typeOf a) c k))) ∧
    GivesScalar s (.addIaddrS a i c) a
      (wrapTo (s.typeOf a) (alignNat .u32 (s.i i).addr.toNat : Nat) + s.scalarVal (s.typeOf a) c) ∧
    (s.SameSize a [c] → GivesVector s (.addIaddrV a i c) a fun k =>
      wrapTo (s.typeOf a) (alignNat .u32 (s.i i).addr.toNat : Nat) + s.laneVal (s.typeOf a) c k)

/-- div.s: quotient rounded toward zero into dA, then remainder into dD; exception 0x1 for a zero divisor. For div.s
with dC of no 64-bit type: if the divisor cast to dA's type is not zero, the instruction answers a next state in
which the quotient of the sources cast to dA's type, rounded toward zero, is written into dA's scalar and then the
remainder, with the sign of the dividend, into dD's scalar at dD's type, so that with one register for both the
remainder stands; the ipc advances and nothing else changes. If the divisor is zero it raises exception 0x1 with no
other effect. (Rounding: decision D7.) Derived from R120, R121, R136, R331. -/
def Obligations.DivScalarResult : Prop :=
  ∀ (s : State) (a b c d : DReg), s.No64 [c] →
    (s.scalarVal (s.typeOf a) c ≠ 0 → ∃ u v t, exec (.divS a b c d) s = .next t ∧
      ScalarWritten s u a ((s.scalarVal (s.typeOf a) b).tdiv (s.scalarVal (s.typeOf a) c)) ∧
      ScalarWritten u v d ((s.scalarVal (s.typeOf a) b).tmod (s.scalarVal (s.typeOf a) c)) ∧ FallsThrough v t) ∧
    (s.scalarVal (s.typeOf a) c = 0 → GivesException s (.divS a b c d) 0x1)

/-- div.v: all quotients into dA, then all remainders into dD; exception 0x1 if any divisor is zero. For div.v with
dC of no 64-bit type and all elements of dA's size: if no element of the divisor cast to dA's type is zero, the
instruction answers a next state in which all the quotients, rounded toward zero, are written into dA and then all
the remainders into dD, at dA's type; the ipc advances and nothing else changes. If some element is zero it raises
exception 0x1 with no other effect. (Rounding: decision D7; sizes: D5, log entry 10.) Derived from R120, R121, R137,
R331. -/
def Obligations.DivVectorResult : Prop :=
  ∀ (s : State) (a b c d : DReg), s.No64 [c] → s.SameSize a [b, c, d] →
    ((∀ k, k < (s.typeOf a).lanes → s.laneVal (s.typeOf a) c k ≠ 0) → ∃ u v t, exec (.divV a b c d) s = .next t ∧
      VectorWritten s u a (s.typeOf a) (fun k => (s.laneVal (s.typeOf a) b k).tdiv (s.laneVal (s.typeOf a) c k)) ∧
      VectorWritten u v d (s.typeOf a) (fun k => (s.laneVal (s.typeOf a) b k).tmod (s.laneVal (s.typeOf a) c k)) ∧
      FallsThrough v t) ∧
    (∀ k, k < (s.typeOf a).lanes → s.laneVal (s.typeOf a) c k = 0 → GivesException s (.divV a b c d) 0x1)

/-- Each operation not defined for 64-bit types raises exception 0x3 for the operands its rule names. mul raises
exception 0x3 when dB or dC is of a 64-bit type; shl, shr, rol, ror when dA, dB or dC is; add and shl with dB.addr
when dA or dC is; div when dC is, before any zero divisor is looked at; mul.r when dA is. It has no other effect.
That the sizes of the elements play no part, in a vector form and in mul.r, is this model's order (log entry 19,
DEDUCED): R340 does not place the refusal of mixed sizes, and the pseudocode of R150 writes it first. Derived from
R121, R125, R129, R130, R131, R132, R133, R134, R136, R137, R152, R340. -/
def Obligations.SixtyFourBitTypesRaiseExceptionThree : Prop :=
  ∀ (s : State) (a b c d : DReg),
    ∀ p ∈ ([(.mulS a b c, [b, c]), (.mulV a b c, [b, c]),
        (.shlS a b c, [a, b, c]), (.shlV a b c, [a, b, c]), (.shrS a b c, [a, b, c]), (.shrV a b c, [a, b, c]),
        (.rolS a b c, [a, b, c]), (.rolV a b c, [a, b, c]), (.rorS a b c, [a, b, c]), (.rorV a b c, [a, b, c]),
        (.addAddrS a b c, [a, c]), (.addAddrV a b c, [a, c]), (.shlAddrS a b c, [a, c]), (.shlAddrV a b c, [a, c]),
        (.divS a b c d, [c]), (.divV a b c d, [c]), (.mulR a b, [a])] : List (Instr × List DReg)),
      (∃ n ∈ p.2, (s.typeOf n).is64 = true) → GivesException s p.1 0x3

/-- A vector form or a reduction whose sources' elements do not have dA's size is refused by name. A vector form of
Group 0, or a reduction, with a register among those its elements pair up with whose element size is not dA's, and
no operand for which it raises exception 0x3, is refused: the spec's parameter VEC_MIXED_SIZE (decision D5, U7; log
entry 10). That exception 0x3 comes before the refusal, and the refusal before a zero divisor, is this model's order
(log entry 19, DEDUCED). Derived from R120, R137, R139, R150. -/
def Obligations.MixedElementSizesAreRefused : Prop :=
  ∀ (s : State) (a b c d : DReg) (i : IReg),
    ∀ p ∈ ([(.addV a b c, [b, c], []), (.subV a b c, [b, c], []), (.sltV a b c, [b, c], []), (.mulV a b c, [b, c], [b, c]),
        (.andV a b c, [b, c], []), (.orV a b c, [b, c], []), (.xorV a b c, [b, c], []),
        (.shlV a b c, [b, c], [a, b, c]), (.shrV a b c, [b, c], [a, b, c]), (.rolV a b c, [b, c], [a, b, c]),
        (.rorV a b c, [b, c], [a, b, c]), (.addAddrV a b c, [c], [a, c]), (.shlAddrV a b c, [c], [a, c]),
        (.addIaddrV a i c, [c], []), (.divV a b c d, [b, c, d], [c]), (.addR a b, [b], []), (.mulR a b, [b], [a]),
        (.maxR a b, [b], []), (.minR a b, [b], []), (.andR a b, [b], []), (.orR a b, [b], []), (.xorR a b, [b], [])] :
          List (Instr × List DReg × List DReg)),
      ¬ s.SameSize a p.2.1 → s.No64 p.2.2 → exec p.1 s = .refused .vecMixedSize

/-- add.r and mul.r: the sum and the product of all elements of dB at the type of dA. For add.r, and for mul.r with
dA of no 64-bit type, with elements of equal size: the instruction answers a next state in which dA's scalar is the
sum, or the product, of all n(T) elements of dB cast to dA's type, modulo 2^w; the ipc advances and nothing else
changes. (Wrapping: decision D4.) Derived from R121, R150, R151, R152. -/
def Obligations.ReduceSumAndProductResult : Prop :=
  ∀ (s : State) (a b : DReg), s.SameSize a [b] →
    GivesScalar s (.addR a b) a ((List.range (s.typeOf a).lanes).map fun k => s.laneVal (s.typeOf a) b k).sum ∧
    (s.No64 [a] →
      GivesScalar s (.mulR a b) a ((List.range (s.typeOf a).lanes).map fun k => s.laneVal (s.typeOf a) b k).prod)

/-- max.r and min.r: the greatest and the least element of dB at the type of dA. For max.r and min.r, with elements
of equal size: the instruction answers a next state in which dA's scalar is an element of dB, cast to dA's type,
that no element exceeds, or that exceeds no element, signed or unsigned by dA's type; the ipc advances and nothing
else changes. Derived from R150, R153, R154. -/
def Obligations.ReduceMaxAndMinResult : Prop :=
  ∀ (s : State) (a b : DReg), s.SameSize a [b] →
    (∃ m, m < (s.typeOf a).lanes ∧
      (∀ k, k < (s.typeOf a).lanes → s.laneVal (s.typeOf a) b k ≤ s.laneVal (s.typeOf a) b m) ∧
      GivesScalar s (.maxR a b) a (s.laneVal (s.typeOf a) b m)) ∧
    (∃ m, m < (s.typeOf a).lanes ∧
      (∀ k, k < (s.typeOf a).lanes → s.laneVal (s.typeOf a) b m ≤ s.laneVal (s.typeOf a) b k) ∧
      GivesScalar s (.minR a b) a (s.laneVal (s.typeOf a) b m))

/-- and.r, or.r, xor.r: the bitwise combination of the patterns of all elements of dB. For and.r, or.r and xor.r,
with elements of equal size: the instruction answers a next state in which dA's scalar has as its pattern the
bitwise and (from all ones), or, or exclusive or (from zero) of the patterns of all elements of dB at dA's type; the
ipc advances and nothing else changes. Derived from R150, R155, R156, R157. -/
def Obligations.ReduceBitwiseResult : Prop :=
  ∀ (s : State) (a b : DReg), s.SameSize a [b] →
    ∀ p ∈ ([(.andR a b, fun x y => x &&& y, 2 ^ (s.typeOf a).width - 1), (.orR a b, fun x y => x ||| y, 0),
        (.xorR a b, fun x y => x ^^^ y, 0)] : List (Instr × (Nat → Nat → Nat) × Nat)),
      GivesScalar s p.1 a (((List.range (s.typeOf a).lanes).map fun k =>
        patternOf (s.typeOf a) (s.lane b k).val).foldl p.2.1 p.2.2 : Nat)

/-- Group 2 loads: dA gets dB's scalar plus simm12 as its address, the mnemonic's type, and the line. From a memory
in canonical form, each of the eight loads answers a next state in which dA's address is dB's scalar cast to u32
plus the displacement, modulo 2^32, not aligned, and its type the mnemonic's; the line of that address comes from
the lowest-numbered other holder, else from memory; the line that dA leaves is written back if dA was its last
holder and it is dirty; the ipc advances and nothing else changes. A d0 destination changes nothing. (Decisions D13
to D15; log entry 8.) Derived from R165, R166, R167, R168, R169, R170, R171, R172, R173, R191. -/
def Obligations.LoadFromBaseAndImmediate : Prop :=
  ∀ (s : State) (a b : DReg) (imm : Int), s.mem.wf = true →
    ∀ p ∈ ([(.ldu8i a b imm, .u8), (.lds8i a b imm, .s8), (.ldu16i a b imm, .u16), (.lds16i a b imm, .s16), (.ldu32i a b imm,
        .u32), (.lds32i a b imm, .s32), (.ldu64i a b imm, .u64), (.lds64i a b imm, .s64)] : List (Instr × Ty)),
      GivesLoad s p.1 a (BitVec.ofInt 32 ((s.scalar b).val + imm)) p.2

/-- Group 3 loads: dA gets dB's aligned address plus simm12 as its address, the mnemonic's type, and the line. From
a memory in canonical form, each of the eight loads answers a next state in which dA's address is dB's address
aligned to dB's type plus the displacement, modulo 2^32, not aligned, and its type the mnemonic's; the line of that
address comes from the lowest-numbered other holder, else from memory; the line that dA leaves is written back if dA
was its last holder and it is dirty; the ipc advances and nothing else changes. A d0 destination changes nothing.
(Decisions D13 to D15; log entry 8.) Derived from R165, R174, R175, R176, R177, R178, R179, R180, R181, R192. -/
def Obligations.LoadFromAddressAndImmediate : Prop :=
  ∀ (s : State) (a b : DReg) (imm : Int), s.mem.wf = true →
    ∀ p ∈ ([(.ldu8iAddr a b imm, .u8), (.lds8iAddr a b imm, .s8), (.ldu16iAddr a b imm, .u16), (.lds16iAddr a b imm, .s16),
        (.ldu32iAddr a b imm, .u32), (.lds32iAddr a b imm, .s32), (.ldu64iAddr a b imm, .u64), (.lds64iAddr a b imm,
        .s64)] : List (Instr × Ty)),
      GivesLoad s p.1 a (BitVec.ofInt 32 ((alignNat (s.typeOf b) (s.d b).addr.toNat : Nat) + imm)) p.2

/-- Group 4 loads: dA gets the sum of two scalars as its address, the mnemonic's type, and the line. From a memory
in canonical form, each of the eight loads answers a next state in which dA's address is the sum of dB's and dC's
scalars cast to u32, modulo 2^32, not aligned, and its type the mnemonic's; the line of that address comes from the
lowest-numbered other holder, else from memory; the line that dA leaves is written back if dA was its last holder
and it is dirty; the ipc advances and nothing else changes. A d0 destination changes nothing. (Decisions D13 to D15;
log entry 8.) Derived from R165, R182, R183, R184, R185, R186, R187, R188, R189, R193. -/
def Obligations.LoadFromBaseAndIndex : Prop :=
  ∀ (s : State) (a b c : DReg), s.mem.wf = true →
    ∀ p ∈ ([(.ldu8 a b c, .u8), (.lds8 a b c, .s8), (.ldu16 a b c, .u16), (.lds16 a b c, .s16), (.ldu32 a b c, .u32), (.lds32 a b
        c, .s32), (.ldu64 a b c, .u64), (.lds64 a b c, .s64)] : List (Instr × Ty)),
      GivesLoad s p.1 a (BitVec.ofInt 32 ((s.scalar b).val + (s.scalar c).val)) p.2

/-- Stores: dA gets the type; then its scalar, or by STORE_MODE its line, goes to dB's scalar plus simm12. From a
memory in canonical form, each of the eight stores answers a next state. dA's type is set first, and the effective
address is dB's scalar, read with the type set, plus the displacement, modulo 2^32. Where STORE_MODE is scalar_write
(R200, decision D16) the bytes of dA's scalar at that type go to that address aligned to the type: into the line, in
every DLAR that holds it, and then not into memory; else into memory. Where it is line_retag (U5; its sharing and
release: log entry 24) dA's address becomes that address and dA's data, dirty, the line of it, in every DLAR that
holds it; the line that dA leaves is written back if dA was its last holder and it is dirty. The ipc advances and
nothing else changes. Derived from R68, R69, R200, R201, R202, R203, R204, R205, R206, R207, R208. -/
def Obligations.StoreResult : Prop :=
  ∀ (s : State) (a b : DReg) (imm : Int), s.mem.wf = true →
    ∀ p ∈ ([(.stu8i a b imm, .u8), (.sts8i a b imm, .s8), (.stu16i a b imm, .u16), (.sts16i a b imm, .s16), (.stu32i a b imm,
        .u32), (.sts32i a b imm, .s32), (.stu64i a b imm, .u64), (.sts64i a b imm, .s64)] : List (Instr × Ty)),
      GivesStore s p.1 a b imm p.2

/-- Duplicates: dB's scalar, cast to the mnemonic's type, in every element of dA; then the type. Each of the eight
duplicates answers a next state in which every element of dA at the mnemonic's type is dB's scalar, read before
anything is written and cast to that type, and dA's type is then the mnemonic's; dA's address stays, the ipc
advances and nothing else changes. A d0 destination changes nothing. Derived from R215, R216, R217, R218, R219,
R220, R221, R222, R223. -/
def Obligations.DuplicateResult : Prop :=
  ∀ (s : State) (a b : DReg),
    ∀ p ∈ ([(.dpu8 a b, .u8), (.dps8 a b, .s8), (.dpu16 a b, .u16), (.dps16 a b, .s16), (.dpu32 a b, .u32), (.dps32 a b, .s32),
        (.dpu64 a b, .u64), (.dps64 a b, .s64)] : List (Instr × Ty)),
      ∃ v u t, exec p.1 s = .next t ∧ VectorWritten s v a p.2 (fun _ => (s.scalar b).val) ∧ TypeSet v u a p.2 ∧
        FallsThrough u t

/-- fetch fills jimm4 + 1 ILARs from iA on with consecutive lines from the computed address on. When the jimm4 + 1
ILARs from iA on do not pass i62, both forms of fetch answer a next state in which ILAR iA + k is filled, in order,
with the address and the line of iB's address plus dC's scalar, or plus four times isimm11, plus 128 k, modulo 2^32,
the low two bits cleared: from an ILAR that has the line, else from memory (decisions D17, D27). The ipc advances
and nothing else changes. Derived from R73, R98, R101, R230, R231, R232. -/
def Obligations.FetchFillsConsecutiveIlars : Prop :=
  ∀ (s : State) (a b : IReg) (c : DReg) (imm : Int) (j : Nat), a.val + j < 63 →
    ∀ p ∈ ([(.fetchReg a b c j, (s.i b).addr + BitVec.ofInt 32 (s.scalar c).val),
        (.fetchImm a b imm j, (s.i b).addr + BitVec.ofInt 32 (4 * imm))] : List (Instr × Addr)),
      ∃ u t, exec p.1 s = .next t ∧
        InOrder (fun x y (f : PhysReg × Addr) => Filled x y f.1 f.2) s
          ((bankRange s.mode a (j + 1)).zip ((List.range (j + 1)).map fun k => p.2 + BitVec.ofNat 32 (128 * k))) u ∧
        FallsThrough u t

/-- A taken jump puts the ipc at byte offset 4 * iimm5 of the line of iB, and copies the line. When the condition of
sel, jz or jnz, scalar or vector, makes it jump through iB to an index (sel: iimm5 if nonzero, else jimm5; jz: iimm5
if zero; jnz: iimm5 if nonzero), it answers a next state in which the running ipc is a copy of the line of iB, its
address that line's plus 4 times the index, its iv bit 1, and nothing else is changed: for an index below 32 the
program counter lies in that line at byte 4 times the index, and iB, unless it is the ipc, is as it was. A jz or jnz
that does not jump falls through, and nothing else changes. (What a jump does to the ipc: decision D36; the vector
condition: D38.) Derived from R36, R240, R241, R242, R243, R246. -/
def Obligations.TakenJumpsStayInTheLineOfTheirIlar : Prop :=
  ∀ (s : State) (a : DReg) (b : IReg) (i j : Nat),
    (∀ p ∈ ([(.selS a b i j, s.NonZeroScalar a, i), (.selS a b i j, ¬ s.NonZeroScalar a, j),
        (.selV a b i j, s.NonZeroVector a, i), (.selV a b i j, ¬ s.NonZeroVector a, j),
        (.jzS a b i, ¬ s.NonZeroScalar a, i), (.jzV a b i, ¬ s.NonZeroVector a, i),
        (.jnzS a b i, s.NonZeroScalar a, i), (.jnzV a b i, s.NonZeroVector a, i)] : List (Instr × Prop × Nat)),
      p.2.1 → ∃ t, exec p.1 s = .next t ∧ Jumps s t b p.2.2 ∧ (b ≠ 63 → t.i b = s.i b) ∧
        (p.2.2 < 32 → lineOf t.pc = lineOf (s.i b).addr ∧ t.pc.toNat % 128 = 4 * p.2.2)) ∧
    ∀ p ∈ ([(.jzS a b i, s.NonZeroScalar a), (.jzV a b i, s.NonZeroVector a),
        (.jnzS a b i, ¬ s.NonZeroScalar a), (.jnzV a b i, ¬ s.NonZeroVector a)] : List (Instr × Prop)),
      p.2 → ∃ t, exec p.1 s = .next t ∧ FallsThrough s t

/-- sel jumps to iimm5 when its condition is nonzero, and to jimm5 when it is zero. sel.s, by dA's scalar, and
sel.v, by the 128 bytes of dA, answer a next state that jumps through iB to instruction iimm5 if the data is not
zero and to instruction jimm5 if it is. Nothing but the running ipc changes. (The vector condition: decision D38.)
Derived from R240, R241, R246. -/
def Obligations.SelChoosesByCondition : Prop :=
  ∀ (s : State) (a : DReg) (b : IReg) (i j : Nat),
    (s.NonZeroScalar a → ∃ t, exec (.selS a b i j) s = .next t ∧ Jumps s t b i) ∧
    (¬ s.NonZeroScalar a → ∃ t, exec (.selS a b i j) s = .next t ∧ Jumps s t b j) ∧
    (s.NonZeroVector a → ∃ t, exec (.selV a b i j) s = .next t ∧ Jumps s t b i) ∧
    (¬ s.NonZeroVector a → ∃ t, exec (.selV a b i j) s = .next t ∧ Jumps s t b j)

/-- jz jumps when its condition is zero, jnz when it is nonzero; else they fall through. jz and jnz, by dA's scalar
or by its 128 bytes, answer a next state that jumps through iB to instruction iimm5 when the data is zero, or is
not, and else one that falls through. Nothing but the running ipc changes. (The vector condition: decision D38.)
Derived from R240, R242, R243, R246. -/
def Obligations.JzAndJnzJumpByCondition : Prop :=
  ∀ (s : State) (a : DReg) (b : IReg) (i : Nat),
    (s.NonZeroScalar a → (∃ t, exec (.jnzS a b i) s = .next t ∧ Jumps s t b i) ∧
      ∃ t, exec (.jzS a b i) s = .next t ∧ FallsThrough s t) ∧
    (¬ s.NonZeroScalar a → (∃ t, exec (.jzS a b i) s = .next t ∧ Jumps s t b i) ∧
      ∃ t, exec (.jnzS a b i) s = .next t ∧ FallsThrough s t) ∧
    (s.NonZeroVector a → (∃ t, exec (.jnzV a b i) s = .next t ∧ Jumps s t b i) ∧
      ∃ t, exec (.jzV a b i) s = .next t ∧ FallsThrough s t) ∧
    (¬ s.NonZeroVector a → (∃ t, exec (.jzV a b i) s = .next t ∧ Jumps s t b i) ∧
      ∃ t, exec (.jnzV a b i) s = .next t ∧ FallsThrough s t)

/-- reti and retx return to user mode when nonzero, reti setting ie; in user mode they are exceptions. In supervisor
mode reti and retx, scalar and vector, answer a next state: with a nonzero condition the mode is user, reti sets ie
and retx keeps it, and nothing else changes, both ipc included; with a zero condition they fall through. In user
mode, whatever dA holds, reti raises exception 0x5 and retx 0x6. (reti with a zero condition: decision D24.) Derived
from R240, R244, R245, R247, R331. -/
def Obligations.ReturnsFromSupervisorMode : Prop :=
  ∀ (s : State) (a : DReg),
    (s.mode = .supervisor →
      (s.NonZeroScalar a → (∃ t, exec (.retiS a) s = .next t ∧ ReturnsToUser s t true) ∧
        ∃ t, exec (.retxS a) s = .next t ∧ ReturnsToUser s t s.ie) ∧
      (s.NonZeroVector a → (∃ t, exec (.retiV a) s = .next t ∧ ReturnsToUser s t true) ∧
        ∃ t, exec (.retxV a) s = .next t ∧ ReturnsToUser s t s.ie) ∧
      (¬ s.NonZeroScalar a → ∀ i ∈ [Instr.retiS a, Instr.retxS a], ∃ t, exec i s = .next t ∧ FallsThrough s t) ∧
      (¬ s.NonZeroVector a → ∀ i ∈ [Instr.retiV a, Instr.retxV a], ∃ t, exec i s = .next t ∧ FallsThrough s t)) ∧
    (s.mode = .user →
      (∀ i ∈ [Instr.retiS a, Instr.retiV a], GivesException s i 0x5) ∧
      ∀ i ∈ [Instr.retxS a, Instr.retxV a], GivesException s i 0x6)

/-- getaddrs and gettypes write addresses or type codes of a range of LARs into the stream at dA. When the bank is
open to the mode, the source range stays within its bank and dA's stream within the DLARs, getaddrs (of DLARs and of
ILARs) and gettypes answer a next state in which the addresses, as stored, or the type codes of the LARs of the
range are written, in order, into the places of the stream, each cast to the type of the DLAR it lands in; the ipc
advances and nothing else changes. (Streams and codes: decisions D3, D26.) Derived from R255, R256, R257, R258,
R259, R260. -/
def Obligations.GatherWritesTheStream : Prop :=
  ∀ (s : State) (bank : Mode) (a b : DReg) (n : Nat) (slots : List (DReg × Nat)),
    BankOpen s.mode bank → InBank b n → s.stream a n = some slots →
    ∀ p ∈ (match bank with
        | .user => [(.getaddrsU a b n, fun k => (s.dlar k).addr.toNat), (.getaddrsIU a b n, fun k => (s.ilar k).addr.toNat),
            (.gettypesU a b n, fun k => (s.dlar k).type.code)]
        | .supervisor => [(.getaddrsS a b n, fun k => (s.dlar k).addr.toNat),
            (.getaddrsIS a b n, fun k => (s.ilar k).addr.toNat), (.gettypesS a b n, fun k => (s.dlar k).type.code)] :
          List (Instr × (PhysReg → Nat))),
      ∃ u t, exec p.1 s = .next t ∧
        InOrder (fun x y (w : (DReg × Nat) × PhysReg) => ElementWritten x y w.1.1 w.1.2 (p.2 w.2 : Nat)) s
          (slots.zip (bankRange bank b n)) u ∧ FallsThrough u t

/-- ldm loads each DLAR of a range with the address and type that its two streams give. From a memory in canonical
form, when the bank is open to the mode, the destination range and both streams exist, every value of the type
stream is a type's code and no destination is read by a stream, ldm answers a next state in which each destination
is loaded, in order, with its address and its type as by a load; the ipc advances and nothing else changes.
(Decision D26.) Derived from R67, R165, R255, R256, R257, R261. -/
def Obligations.LdmLoadsEachDestination : Prop :=
  ∀ (s : State) (bank : Mode) (a b c : DReg) (n : Nat) (addrs codes : List (DReg × Nat)) (types : List Ty),
    s.mem.wf = true → BankOpen s.mode bank → InBank a n → s.stream b n = some addrs → s.stream c n = some codes →
    types.map Ty.code = (codes.map fun x => (BitVec.ofInt 32 (s.lane x.1 x.2).val).toNat) →
    (∀ x ∈ addrs ++ codes, s.reg x.1 ∉ bankRange bank a n) →
    ∃ u t, exec (match bank with | .user => .ldmU a b c n | .supervisor => .ldmS a b c n) s = .next t ∧
      InOrder (fun x y (l : PhysReg × Addr × Ty) => Loaded x y l.1 l.2.1 l.2.2) s
        ((bankRange bank a n).zip ((addrs.map fun x => BitVec.ofInt 32 (s.lane x.1 x.2).val).zip types)) u ∧
      FallsThrough u t

/-- fetchm fills each ILAR of a range with the line of its own address; a filled ipc becomes valid. When the bank is
open to the mode, the destination range and the stream exist and the running ipc is not in the range, fetchm answers
a next state in which each destination is filled, in order, with its own address from the stream; the iv bit of the
other mode becomes 1 if its ipc is filled; the running ipc advances and nothing else changes. (Decisions D17, D26;
own ipc: log entry 13.) Derived from R73, R255, R256, R257, R262. -/
def Obligations.FetchmFillsEachDestination : Prop :=
  ∀ (s : State) (bank : Mode) (a : IReg) (b : DReg) (n : Nat) (addrs : List (DReg × Nat)),
    BankOpen s.mode bank → InBank a n → s.stream b n = some addrs → ipcOf s.mode ∉ bankRange bank a n →
    ∃ u t, exec (match bank with | .user => .fetchmU a b n | .supervisor => .fetchmS a b n) s = .next t ∧
      InOrder (fun x y (f : PhysReg × Addr) => Filled x y f.1 f.2) s
        ((bankRange bank a n).zip (addrs.map fun x => BitVec.ofInt 32 (s.lane x.1 x.2).val)) u ∧ FallsThrough u t

/-- reload brings each line of a range of DLARs from memory; flush writes each to memory; both clean. From a memory
in canonical form, when the bank is open to the mode and the range stays within it, reload and flush of DLARs answer
a next state in which each DLAR of the range, in order, is reloaded (every holder of its line has the line as it is
in memory and is clean) or flushed (memory has the line, dirty or not, and every holder is clean); d0 is skipped;
the ipc advances and nothing else changes. (S for these two: decision D26.) Derived from R70, R71, R255, R256, R263,
R264. -/
def Obligations.ReloadAndFlushEachDlar : Prop :=
  ∀ (s : State) (bank : Mode) (a : DReg) (n : Nat), s.mem.wf = true → BankOpen s.mode bank → InBank a n →
    (∃ u t, exec (match bank with | .user => .reloadU a n | .supervisor => .reloadS a n) s = .next t ∧
      InOrder Reloaded s (bankRange bank a n) u ∧ FallsThrough u t) ∧
    (∃ u t, exec (match bank with | .user => .flushU a n | .supervisor => .flushS a n) s = .next t ∧
      InOrder Flushed s (bankRange bank a n) u ∧ FallsThrough u t)

/-- reload of ILARs brings each line of a range from memory, at the same address. When the bank is open to the mode
and the range stays within it, reload of ILARs answers a next state in which each ILAR of the range, in order, has
its line as it is in memory at its unchanged address, and the iv bit of a mode is 1 if its ipc is among them; no
other ILAR changes; i0 is skipped; then the ipc advances. (Decisions D17, D26.) Derived from R74, R255, R256, R265. -/
def Obligations.ReloadEachIlar : Prop :=
  ∀ (s : State) (bank : Mode) (a : IReg) (n : Nat), BankOpen s.mode bank → InBank a n →
    ∃ u t, exec (match bank with | .user => .reloadIU a n | .supervisor => .reloadIS a n) s = .next t ∧
      InOrder InstrReloaded s (bankRange bank a n) u ∧ FallsThrough u t

/-- In user mode a Group 9 instruction with S = 1 raises exception 0x13 or 0x14, whatever its operands. In user mode
getaddrs.S, gettypes.S and flush.S raise exception 0x13 and ldm.S, fetchm.S and reload.S raise 0x14, before anything
is read or written, whatever the operands and the count. (reload and flush: decision D26; before the refusal of a
range: log entry 19.) Derived from R255, R331, R340, R345. -/
def Obligations.UserModeMayNotNameTheSupervisorBank : Prop :=
  ∀ (s : State) (a b c : Fin 64) (n : Nat), s.mode = .user →
    ∀ p ∈ ([(.getaddrsS a b n, 0x13), (.getaddrsIS a b n, 0x13), (.gettypesS a b n, 0x13), (.flushS a n, 0x13),
        (.ldmS a b c n, 0x14), (.fetchmS a b n, 0x14), (.reloadS a n, 0x14), (.reloadIS a n, 0x14)] :
          List (Instr × BitVec 32)),
      GivesException s p.1 p.2

/-- A range or stream past number 63, a fetch into the running ipc, a bad ldm: refused by name. With the bank open
to the mode: each fetch and Group 9 instruction is refused when its range passes number 63, or its stream does;
fetch and fetchm when the range contains the running ipc; ldm when a value of its type stream is no type's code (8
or more), or when a destination is read by a stream. The model refuses as the spec does (R230, R256, R257, R261,
R262: U8, U9, U10; log entries 12, 13, 14). Derived from R230, R256, R257, R258, R259, R260, R261, R262, R263, R264,
R265. -/
def Obligations.RegisterRangeRefusals : Prop :=
  ∀ (s : State) (bank : Mode) (a b c : Fin 64) (imm : Int) (n : Nat), BankOpen s.mode bank →
    (64 ≤ a.val + n → ∀ i ∈ [Instr.fetchReg a b c n, Instr.fetchImm a b imm n], exec i s = .refused .registerRange) ∧
    (a.val + n = 63 → ∀ i ∈ [Instr.fetchReg a b c n, Instr.fetchImm a b imm n], exec i s = .refused .fetchIntoIpc) ∧
    (¬ InBank b n ∨ s.stream a n = none →
      ∀ i ∈ (match bank with
        | .user => [Instr.getaddrsU a b n, Instr.getaddrsIU a b n, Instr.gettypesU a b n]
        | .supervisor => [Instr.getaddrsS a b n, Instr.getaddrsIS a b n, Instr.gettypesS a b n]),
      exec i s = .refused .registerRange) ∧
    (¬ InBank a n → ∀ i ∈ (match bank with
        | .user => [Instr.reloadU a n, Instr.flushU a n, Instr.reloadIU a n]
        | .supervisor => [Instr.reloadS a n, Instr.flushS a n, Instr.reloadIS a n]),
      exec i s = .refused .registerRange) ∧
    (¬ InBank a n ∨ s.stream b n = none →
      exec (match bank with | .user => .fetchmU a b n | .supervisor => .fetchmS a b n) s = .refused .registerRange) ∧
    (InBank a n → s.stream b n ≠ none → ipcOf s.mode ∈ bankRange bank a n →
      exec (match bank with | .user => .fetchmU a b n | .supervisor => .fetchmS a b n) s = .refused .fetchIntoIpc) ∧
    (¬ InBank a n ∨ s.stream b n = none ∨ s.stream c n = none →
      exec (match bank with | .user => .ldmU a b c n | .supervisor => .ldmS a b c n) s = .refused .registerRange) ∧
    (∀ addrs codes, InBank a n → s.stream b n = some addrs → s.stream c n = some codes →
      ((∃ x ∈ codes, 8 ≤ (BitVec.ofInt 32 (s.lane x.1 x.2).val).toNat) →
        exec (match bank with | .user => .ldmU a b c n | .supervisor => .ldmS a b c n) s = .refused .ldmTypeCode) ∧
      ((∀ x ∈ codes, (BitVec.ofInt 32 (s.lane x.1 x.2).val).toNat < 8) →
        (∃ x ∈ addrs ++ codes, s.reg x.1 ∈ bankRange bank a n) →
        exec (match bank with | .user => .ldmU a b c n | .supervisor => .ldmS a b c n) s = .refused .ldmOverlap))

/-- cpy.s moves ie and xct to and from a scalar, with the casts of R275, in supervisor mode. In supervisor mode:
cpy.s dA, ie writes 0 or 1, and cpy.s dA, xct the value of xct, into dA's scalar at dA's type; cpy.s ie, dA sets ie
to the low bit of dA's scalar, and cpy.s xct, dA sets xct to dA's scalar cast to u32. The ipc advances and nothing
else changes. (The casts: decision D25.) Derived from R275, R276, R277, R278, R279. -/
def Obligations.CpyOfIeAndXct : Prop :=
  ∀ (s : State) (a : DReg), s.mode = .supervisor →
    GivesScalar s (.cpyFromIe a) a (if s.ie then 1 else 0) ∧
    GivesScalar s (.cpyFromXct a) a (s.xct.toNat : Nat) ∧
    (∃ t, exec (.cpyToIe a) s = .next t ∧ FallsThrough { s with ie := decide ((s.scalar a).val % 2 = 1) } t) ∧
    ∃ t, exec (.cpyToXct a) s = .next t ∧ FallsThrough { s with xct := BitVec.ofInt 32 (s.scalar a).val } t

/-- cpy.v copies 128 bytes between swiargN and the data of dA, either way, in supervisor mode. In supervisor mode,
for N from 0 to 3: cpy.v dA, swiargN makes byte j of swiargN byte j of dA's data, as every holder of dA's line sees
it, dirty; dA's type and address stay; a d0 destination changes nothing. cpy.v swiargN, dA makes swiargN the data of
dA. The ipc advances and nothing else changes. (Decision D25.) Derived from R66, R275, R280, R281, R282, R283, R284,
R285, R286, R287. -/
def Obligations.CpyOfSwiargResult : Prop :=
  ∀ (s : State) (a : DReg), s.mode = .supervisor →
    (∀ p ∈ ([(.cpyFromSwiarg0 a, s.swiarg0), (.cpyFromSwiarg1 a, s.swiarg1), (.cpyFromSwiarg2 a, s.swiarg2),
        (.cpyFromSwiarg3 a, s.swiarg3)] : List (Instr × Line)),
      ∃ u t, exec p.1 s = .next t ∧ LineWritten s u (s.reg a) 0 ((List.range 128).map (byteAt p.2)) ∧ FallsThrough u t) ∧
    ∀ p ∈ ([(.cpyToSwiarg0 a, { s with swiarg0 := (s.d a).data }), (.cpyToSwiarg1 a, { s with swiarg1 := (s.d a).data }),
        (.cpyToSwiarg2 a, { s with swiarg2 := (s.d a).data }), (.cpyToSwiarg3 a, { s with swiarg3 := (s.d a).data })] :
          List (Instr × State)),
      ∃ t, exec p.1 s = .next t ∧ FallsThrough p.2 t

/-- iimm5 is bits [14:10], left shifted by 2 once, then zero-extended. Where a word decodes to a sel, jz or jnz with
index i, the byte offset that the index denotes, 4 times i, is bits [14:10] of the word with two zero bits appended,
zero-extended: 0 to 124, the offset of one of the 32 instructions of a line. Stated in R99. -/
def Obligations.JumpIndexIsShiftedOnce : Prop :=
  ∀ (w : Word) (a : DReg) (b : IReg) (i j : Nat),
    ∀ x ∈ [Instr.selS a b i j, Instr.selV a b i j, Instr.jzS a b i, Instr.jzV a b i, Instr.jnzS a b i, Instr.jnzV a b i],
      decode w = .ok x → 4 * i = (w.extractLsb' 10 5 ++ 0#2).toNat ∧ 4 * i ≤ 124

/-- In user mode each cpy raises its own exception, 0x7 to 0x12, and does nothing else. In user mode the twelve cpy
instructions raise exceptions 0x7 to 0x12, one code per register and direction, with no other effect. Derived from
R275, R276, R277, R278, R279, R321, R331, R340, R345. -/
def Obligations.CpyInUserModeIsAnException : Prop :=
  ∀ (s : State) (a : DReg), s.mode = .user →
    ∀ p ∈ ([(.cpyFromIe a, 0x7), (.cpyToIe a, 0x8), (.cpyFromXct a, 0x9), (.cpyToXct a, 0xa), (.cpyFromSwiarg0 a, 0xb),
        (.cpyToSwiarg0 a, 0xc), (.cpyFromSwiarg1 a, 0xd), (.cpyToSwiarg1 a, 0xe), (.cpyFromSwiarg2 a, 0xf),
        (.cpyToSwiarg2 a, 0x10), (.cpyFromSwiarg3 a, 0x11), (.cpyToSwiarg3 a, 0x12)] : List (Instr × BitVec 32)),
      GivesException s p.1 p.2

/-- swi copies the data of its four operands into swiarg0 to swiarg3, then always raises exception 0x4. In either
mode and whatever ie is, swi answers a next state: the one that raising exception 0x4 gives from the state in which
swiarg0 to swiarg3 are the 128 bytes of dA, dB, dC and dD, all read before. From user mode the user ipc moves on
first, its iv bit cleared if it leaves its line; then xct is 4, the mode is supervisor, the supervisor ipc is at
address 0 with line 0 and iv[S] is 1; ie, every DLAR, every other ILAR and every byte of memory are as they were.
(Where the user ipc is left: decision D20; a swi in supervisor mode: D21; the copies before the user ipc moves on:
log entry 23, DEDUCED.) Derived from R36, R288, R330, R335. -/
def Obligations.SwiCopiesThenRaises : Prop :=
  ∀ (s : State) (a b c d : DReg), ∃ t, exec (.swi a b c d) s = .next t ∧
    Raises { s with
      swiarg0 := (s.d a).data, swiarg1 := (s.d b).data, swiarg2 := (s.d c).data, swiarg3 := (s.d d).data } t 0x4

/-- in: the type first, then the bytes the environment answers at the IO address become dA's scalar or data. Each
scalar and vector in answers a next state: dA's type is set first; the IO address is the sum of dB's and dC's
scalars cast to u32, read with the type set; size(T) or 128 bytes are asked of the environment there, which the log
of accesses records; what it answers (the state's script, or a free value where that ends: log entry 4) becomes dA's
scalar, or all its data. The ipc advances and nothing else changes. With d0 the access is made and the answer
dropped. (Decision D28.) Derived from R66, R81, R295, R296, R297, R298, R299, R300, R301, R302, R303. -/
def Obligations.InputResult : Prop :=
  ∀ (s : State) (a b c : DReg),
    (∀ p ∈ ([(.inu8S a b c, .u8), (.ins8S a b c, .s8), (.inu16S a b c, .u16), (.ins16S a b c, .s16), (.inu32S a b c, .u32),
        (.ins32S a b c, .s32), (.inu64S a b c, .u64), (.ins64S a b c, .s64)] : List (Instr × Ty)),
      ∃ v u t, exec p.1 s = .next t ∧ TypeSet s v a p.2 ∧
        LineWritten { v with
            ioLog := s.ioLog ++ [.read (BitVec.ofInt 32 ((v.scalar b).val + (v.scalar c).val)) p.2.size]
            ioScript := s.ioScript.drop p.2.size } u (s.reg a) (v.scalarPlace p.2 a)
          ((List.range p.2.size).map fun j => s.ioScript.getD j (Config.ioByteAt s.ioLog.length
            (BitVec.ofInt 32 ((v.scalar b).val + (v.scalar c).val) + BitVec.ofNat 32 j))) ∧
        FallsThrough u t) ∧
    (∀ p ∈ ([(.inu8V a b c, .u8), (.ins8V a b c, .s8), (.inu16V a b c, .u16), (.ins16V a b c, .s16), (.inu32V a b c, .u32),
        (.ins32V a b c, .s32), (.inu64V a b c, .u64), (.ins64V a b c, .s64)] : List (Instr × Ty)),
      ∃ v u t, exec p.1 s = .next t ∧ TypeSet s v a p.2 ∧
        LineWritten { v with
            ioLog := s.ioLog ++ [.read (BitVec.ofInt 32 ((v.scalar b).val + (v.scalar c).val)) 128]
            ioScript := s.ioScript.drop 128 } u (s.reg a) 0
          ((List.range 128).map fun j => s.ioScript.getD j (Config.ioByteAt s.ioLog.length
            (BitVec.ofInt 32 ((v.scalar b).val + (v.scalar c).val) + BitVec.ofNat 32 j))) ∧
        FallsThrough u t)

/-- out: the type first, then the bytes of dA's scalar or its 128 bytes go to the IO address. Each scalar and vector
out answers a next state: dA's type is set first; the bytes of dA's scalar at that type, or its 128 bytes, are
handed to the environment at the IO address, the sum of dB's and dC's scalars cast to u32, read with the type set,
which the log of accesses records; of a d0 these are zero bytes. The ipc advances and nothing else changes.
(Decisions D28, D37.) Derived from R81, R295, R304, R305, R306, R307, R308, R309, R310, R311. -/
def Obligations.OutputResult : Prop :=
  ∀ (s : State) (a b c : DReg),
    (∀ p ∈ ([(.outu8S a b c, .u8), (.outs8S a b c, .s8), (.outu16S a b c, .u16), (.outs16S a b c, .s16), (.outu32S a b c, .u32),
        (.outs32S a b c, .s32), (.outu64S a b c, .u64), (.outs64S a b c, .s64)] : List (Instr × Ty)),
      ∃ v t, exec p.1 s = .next t ∧ TypeSet s v a p.2 ∧
        FallsThrough { v with ioLog := s.ioLog ++ [.write (BitVec.ofInt 32 ((v.scalar b).val + (v.scalar c).val))
          (v.dataBytes a (v.scalarPlace p.2 a) p.2.size)] } t) ∧
    (∀ p ∈ ([(.outu8V a b c, .u8), (.outs8V a b c, .s8), (.outu16V a b c, .u16), (.outs16V a b c, .s16), (.outu32V a b c, .u32),
        (.outs32V a b c, .s32), (.outu64V a b c, .u64), (.outs64V a b c, .s64)] : List (Instr × Ty)),
      ∃ v t, exec p.1 s = .next t ∧ TypeSet s v a p.2 ∧
        FallsThrough { v with ioLog := s.ioLog ++ [.write (BitVec.ofInt 32 ((v.scalar b).val + (v.scalar c).val))
          (v.dataBytes a 0 128)] } t)
end

