-- ==== Sys2Proof/Laws/Bytes.lean ====
section
/-! SUPPORT. Byte strings, tables of 128 entries, and the bytes of a line. -/

namespace Sys2Proof.Machine

@[simp] theorem tabulate_get {α : Type} (f : Fin 128 → α) (i : Nat) (h : i < 128) : (tabulate f)[i] = f ⟨i, h⟩ := by
  simp [tabulate, List.getElem_finRange]

@[simp] theorem tabulate_get_fin {α : Type} (f : Fin 128 → α) (i : Fin 128) : (tabulate f)[i] = f i := by
  simp [Fin.getElem_fin]

theorem tabulate_toList {α : Type} (f : Fin 128 → α) : (tabulate f).toList = (List.finRange 128).map f := rfl

theorem byteAt_lt (l : Line) {j : Nat} (h : j < 128) : byteAt l j = l[j] := by simp [byteAt, h]

theorem byteAt_eq_fin (l : Line) (j : Fin 128) : byteAt l j.val = l[j] := byteAt_lt l j.isLt

/-- Lines are equal when their bytes are. -/
theorem line_ext {l m : Line} (h : ∀ j, j < 128 → byteAt l j = byteAt m j) : l = m := by
  apply Vector.ext
  intro j hj
  simpa [byteAt, hj] using h j hj

theorem byteAt_tabulate (f : Fin 128 → Byte) {j : Nat} (h : j < 128) : byteAt (tabulate f) j = f ⟨j, h⟩ := by
  simp [byteAt, h]

theorem byteAt_zeroLine (j : Nat) : byteAt zeroLine j = 0 := by
  unfold byteAt zeroLine; split <;> simp

theorem line_toList_length (l : Line) : l.toList.length = 128 := by simp

theorem line_toList_getD (l : Line) {j : Nat} (h : j < 128) : l.toList.getD j 0 = byteAt l j := by
  simp [List.getD_eq_getElem?_getD, byteAt, h]

/-- What a byte string written into a line does to its bytes (R66). -/
theorem byteAt_patch (l : Line) (p : Nat) (bs : List Byte) {j : Nat} (h : j < 128) :
    byteAt (patch l p bs) j = if p ≤ j ∧ j < p + bs.length then bs.getD (j - p) 0 else byteAt l j := by
  simp [patch, h, byteAt_lt]

@[simp] theorem leBytes_length (n v : Nat) : (leBytes n v).length = n := by
  induction n generalizing v with
  | zero => rfl
  | succ n ih => simp [leBytes, ih]

@[simp] theorem natToBytes_length (order : ByteOrder) (n v : Nat) : (natToBytes order n v).length = n := by
  cases order <;> simp [natToBytes]

theorem leNat_leBytes (n v : Nat) : leNat (leBytes n v) = v % 256 ^ n := by
  induction n generalizing v with
  | zero => simp [leBytes, leNat, Nat.mod_one]
  | succ n ih =>
    have h : v % 256 ^ (n + 1) = v % 256 + 256 * (v / 256 % 256 ^ n) := by
      rw [Nat.pow_succ, Nat.mul_comm (256 ^ n) 256, Nat.mod_mul]
    simp only [leBytes, leNat, ih, BitVec.toNat_ofNat, h]

/-- Writing a number's bytes and reading them again (R60). -/
theorem bytesToNat_natToBytes (order : ByteOrder) (n v : Nat) : bytesToNat order (natToBytes order n v) = v % 256 ^ n := by
  cases order <;> simp [bytesToNat, natToBytes, leNat_leBytes]

theorem leNat_lt (bs : List Byte) : leNat bs < 256 ^ bs.length := by
  induction bs with
  | nil => simp [leNat]
  | cons b bs ih =>
    have := b.isLt
    simp only [leNat, List.length_cons, Nat.pow_succ]
    omega

theorem bytesToNat_lt (order : ByteOrder) (bs : List Byte) : bytesToNat order bs < 256 ^ bs.length := by
  cases order
  · exact leNat_lt bs
  · simpa [bytesToNat] using leNat_lt bs.reverse

theorem leBytes_leNat (bs : List Byte) : leBytes bs.length (leNat bs) = bs := by
  induction bs with
  | nil => rfl
  | cons b bs ih =>
    have hb := b.isLt
    simp only [leNat, List.length_cons, leBytes, List.cons.injEq]
    refine ⟨?_, ?_⟩
    · apply BitVec.eq_of_toNat_eq
      simpa [Nat.add_mul_mod_self_left] using hb
    · rw [Nat.add_mul_div_left _ _ (by decide), Nat.div_eq_of_lt hb, Nat.zero_add, ih]

/-- Reading a number's bytes and writing them again (R60). -/
theorem natToBytes_bytesToNat (order : ByteOrder) (bs : List Byte) :
    natToBytes order bs.length (bytesToNat order bs) = bs := by
  cases order
  · exact leBytes_leNat bs
  · have := leBytes_leNat bs.reverse
    simp only [List.length_reverse] at this
    simp [natToBytes, bytesToNat, this]

theorem leBytes_mod (n v : Nat) : leBytes n (v % 256 ^ n) = leBytes n v := by
  have h := leBytes_leNat (leBytes n v)
  simpa [leNat_leBytes] using h

/-- Only the low bits of a number show in its bytes. -/
theorem natToBytes_mod (order : ByteOrder) (n v : Nat) : natToBytes order n (v % 256 ^ n) = natToBytes order n v := by
  cases order <;> simp [natToBytes, leBytes_mod]

@[simp] theorem slice_length (l : Line) (p n : Nat) : (slice l p n).length = n := by simp [slice]

end Sys2Proof.Machine
end

