-- ==== Sys2Proof/Laws/Arith.lean ====
section
/-! SUPPORT. The operations on typed values, as arithmetic on integers (R8, R122 to R137). -/

namespace Sys2Proof.Machine

theorem size_cases (T : Ty) : T.size = 1 ∨ T.size = 2 ∨ T.size = 4 ∨ T.size = 8 := by cases T <;> simp [Ty.size]
theorem size_pos (T : Ty) : 0 < T.size := by cases T <;> decide
theorem width_le (T : Ty) : T.width ≤ 64 := by cases T <;> decide
theorem width_pos (T : Ty) : 0 < T.width := by cases T <;> decide
theorem size_mul_lanes (T : Ty) : T.lanes * T.size = 128 := by cases T <;> rfl
theorem pow256_size (T : Ty) : 256 ^ T.size = 2 ^ T.width := by
  rw [Ty.width, Nat.pow_mul]

theorem patternOf_lt (T : Ty) (z : Int) : patternOf T z < 2 ^ T.width := by
  have hpos : (0 : Int) < 2 ^ T.width := by positivity
  have := Int.emod_lt_of_pos z hpos
  have := Int.emod_nonneg z (ne_of_gt hpos)
  unfold patternOf
  zify
  omega

theorem patternOf_cast (T : Ty) (z : Int) : (patternOf T z : Int) = z % 2 ^ T.width := by
  have hpos : (0 : Int) < 2 ^ T.width := by positivity
  exact Int.toNat_of_nonneg (Int.emod_nonneg z (ne_of_gt hpos))

theorem patternOf_nat (T : Ty) (n : Nat) : patternOf T n = n % 2 ^ T.width := by
  zify
  rw [patternOf_cast]

theorem patternOf_eq_iff (T : Ty) (x y : Int) : patternOf T x = patternOf T y ↔ x % 2 ^ T.width = y % 2 ^ T.width := by
  rw [← patternOf_cast, ← patternOf_cast]
  exact Int.ofNat_inj.symm

/-! ### `ofInt`, `val`, `cast` -/

@[simp] theorem ofInt_ty (T : Ty) (z : Int) : (TVal.ofInt T z).ty = T := rfl

theorem ofInt_bits (T : Ty) (z : Int) : (TVal.ofInt T z).bits.toNat = patternOf T z := by
  have h := patternOf_lt T z
  have h64 : 2 ^ T.width ≤ 2 ^ 64 := Nat.pow_le_pow_right (by decide) (width_le T)
  have he : (BitVec.ofInt T.width z).toNat = patternOf T z := by
    simp [BitVec.toNat_ofInt, patternOf]
  rw [TVal.ofInt, BitVec.toNat_setWidth, he]
  exact Nat.mod_eq_of_lt (lt_of_lt_of_le h h64)

/-- The value of a pattern (R8). -/
theorem val_of_bits (v : TVal) : v.val = wrapTo v.ty v.bits.toNat := by
  unfold TVal.val wrapTo
  split
  · rw [BitVec.toInt_eq_toNat_bmod, BitVec.toNat_setWidth]
    push_cast
    exact_mod_cast Int.emod_bmod v.bits.toNat (2 ^ v.ty.width)
  · rw [BitVec.toNat_setWidth]
    push_cast
    rfl

theorem wrapTo_emod (T : Ty) (z : Int) : wrapTo T (z % 2 ^ T.width) = wrapTo T z := by
  unfold wrapTo
  split
  · exact_mod_cast Int.emod_bmod z (2 ^ T.width)
  · simp

theorem val_ofInt (T : Ty) (z : Int) : (TVal.ofInt T z).val = wrapTo T z := by
  rw [val_of_bits, ofInt_bits, ofInt_ty, patternOf_cast, wrapTo_emod]

/-- A cast keeps the value modulo the width (R8). -/
theorem val_cast (T : Ty) (v : TVal) : (cast T v).val = wrapTo T v.val := val_ofInt T v.val

@[simp] theorem cast_ty (T : Ty) (v : TVal) : (cast T v).ty = T := rfl

theorem wrapTo_mod (T : Ty) (z : Int) : wrapTo T z % 2 ^ T.width = z % 2 ^ T.width := by
  unfold wrapTo
  split
  · have := Int.bmod_emod (x := z) (m := 2 ^ T.width)
    push_cast at this
    simpa using this
  · simp

theorem patternOf_wrapTo (T : Ty) (z : Int) : patternOf T (wrapTo T z) = patternOf T z := by
  rw [patternOf_eq_iff, wrapTo_mod]

theorem cast_bits (T : Ty) (v : TVal) : (cast T v).bits.toNat = patternOf T (wrapTo T v.val) := by
  rw [patternOf_wrapTo]; exact ofInt_bits T v.val

/-- The bounds of a value at a type. -/
theorem wrapTo_bounds (T : Ty) (z : Int) : -2 ^ T.width ≤ wrapTo T z ∧ wrapTo T z < 2 ^ T.width := by
  have hpos : (0 : Int) < 2 ^ T.width := by positivity
  unfold wrapTo
  split
  · have hp : (0 : Nat) < 2 ^ T.width := by positivity
    have h1 := Int.le_bmod (x := z) hp
    have h2 := Int.bmod_lt (x := z) hp
    push_cast at h1 h2
    omega
  · have h1 := Int.emod_nonneg z (ne_of_gt hpos)
    have h2 := Int.emod_lt_of_pos z hpos
    omega

/-! ### The bytes of a result -/

/-- A typed value whose pattern is that of `z` has the bytes of `z`. -/
theorem bytes_of_bits {order : ByteOrder} {v : TVal} {z : Int} (h : v.bits.toNat = patternOf v.ty z) :
    v.bytes order = bytesOfInt order v.ty z := by
  rw [TVal.bytes, bytesOfInt, h]

theorem bytesOfInt_length (order : ByteOrder) (T : Ty) (z : Int) : (bytesOfInt order T z).length = T.size :=
  natToBytes_length _ _ _

/-- What an operation computes: the type and the pattern of the result. -/
def Computes (v : TVal) (T : Ty) (z : Int) : Prop := v.ty = T ∧ v.bits.toNat = patternOf T z

theorem Computes.congr {v : TVal} {T : Ty} {z z' : Int} (h : Computes v T z) (hz : z % 2 ^ T.width = z' % 2 ^ T.width) :
    Computes v T z' := ⟨h.1, by rw [h.2, patternOf_eq_iff, hz]⟩

theorem computes_ofInt (T : Ty) (z : Int) : Computes (TVal.ofInt T z) T z := ⟨rfl, ofInt_bits T z⟩

theorem computes_add (T : Ty) (v w : TVal) :
    Computes ((cast T v).add (cast T w)) T (wrapTo T v.val + wrapTo T w.val) := by
  rw [TVal.add, val_cast, val_cast]; exact computes_ofInt T _

theorem computes_sub (T : Ty) (v w : TVal) :
    Computes ((cast T v).sub (cast T w)) T (wrapTo T v.val - wrapTo T w.val) := by
  rw [TVal.sub, val_cast, val_cast]; exact computes_ofInt T _

theorem computes_mul (T : Ty) (v w : TVal) :
    Computes ((cast T v).mul (cast T w)) T (wrapTo T v.val * wrapTo T w.val) := by
  rw [TVal.mul, val_cast, val_cast]; exact computes_ofInt T _

theorem computes_slt (T : Ty) (v w : TVal) :
    Computes ((cast T v).slt (cast T w)) T (if wrapTo T v.val < wrapTo T w.val then 1 else 0) := by
  rw [TVal.slt, val_cast, val_cast]; exact computes_ofInt T _

theorem computes_bits {T : Ty} {b : BitVec 64} {n : Nat} (h : b.toNat = n) (hn : n < 2 ^ T.width) :
    Computes { ty := T, bits := b } T n := ⟨rfl, by rw [patternOf_nat, Nat.mod_eq_of_lt hn]; exact h⟩

theorem computes_and (T : Ty) (v w : TVal) :
    Computes ((cast T v).and (cast T w)) T ((patternOf T (wrapTo T v.val) &&& patternOf T (wrapTo T w.val) : Nat) : Int) := by
  refine computes_bits ?_ (lt_of_le_of_lt Nat.and_le_left (patternOf_lt T _))
  rw [BitVec.toNat_and, cast_bits, cast_bits]

theorem computes_or (T : Ty) (v w : TVal) :
    Computes ((cast T v).or (cast T w)) T ((patternOf T (wrapTo T v.val) ||| patternOf T (wrapTo T w.val) : Nat) : Int) := by
  refine computes_bits ?_ (Nat.or_lt_two_pow (patternOf_lt T _) (patternOf_lt T _))
  rw [BitVec.toNat_or, cast_bits, cast_bits]

theorem computes_xor (T : Ty) (v w : TVal) :
    Computes ((cast T v).xor (cast T w)) T ((patternOf T (wrapTo T v.val) ^^^ patternOf T (wrapTo T w.val) : Nat) : Int) := by
  refine computes_bits ?_ (Nat.xor_lt_two_pow (patternOf_lt T _) (patternOf_lt T _))
  rw [BitVec.toNat_xor, cast_bits, cast_bits]

/-- The count of a shift: the second operand, modulo the width's power, unsigned (R129). -/
theorem shiftCount_cast (T : Ty) (w : TVal) : shiftCount (cast T w) = patternOf T (wrapTo T w.val) := by
  have hu : T.uns.signed = false := by cases T <;> rfl
  have hw : T.uns.width = T.width := by cases T <;> rfl
  unfold shiftCount
  rw [val_cast, val_cast, cast_ty, wrapTo, hu]
  simp [hw, patternOf]

theorem computes_shl (T : Ty) (v w : TVal) :
    Computes ((cast T v).shl (cast T w)) T (wrapTo T v.val * 2 ^ patternOf T (wrapTo T w.val)) := by
  unfold TVal.shl
  rw [shiftCount_cast, cast_ty, val_cast]
  split
  · next h =>
    refine (computes_ofInt T 0).congr ?_
    obtain ⟨k, hk⟩ := Nat.exists_eq_add_of_le h
    rw [hk, pow_add, mul_comm ((2 : Int) ^ T.width), ← mul_assoc]
    simp
  · exact computes_ofInt T _

theorem computes_shr (T : Ty) (v w : TVal) :
    Computes ((cast T v).shr (cast T w)) T (wrapTo T v.val / 2 ^ patternOf T (wrapTo T w.val)) := by
  unfold TVal.shr
  rw [shiftCount_cast, cast_ty, val_cast]
  split
  · next h =>
    have hb := wrapTo_bounds T v.val
    have hle : (2 : Int) ^ T.width ≤ 2 ^ patternOf T (wrapTo T w.val) := pow_le_pow_right₀ (by norm_num) h
    have hpos : (0 : Int) < 2 ^ patternOf T (wrapTo T w.val) := by positivity
    have : (if wrapTo T v.val < 0 then (-1 : Int) else 0) = wrapTo T v.val / 2 ^ patternOf T (wrapTo T w.val) := by
      split
      · rw [eq_comm, Int.ediv_eq_iff_of_pos hpos]; constructor <;> linarith
      · rw [eq_comm, Int.ediv_eq_iff_of_pos hpos]; constructor <;> linarith
    rw [this]
    exact computes_ofInt T _
  · exact computes_ofInt T _

theorem cast_setWidth (T : Ty) (v : TVal) : ((cast T v).bits.setWidth T.width).toNat = patternOf T (wrapTo T v.val) := by
  rw [BitVec.toNat_setWidth, cast_bits, Nat.mod_eq_of_lt (patternOf_lt T _)]

/-- The two parts of a rotation do not overlap. -/
theorem rotate_nat (p w r : Nat) (hp : p < 2 ^ w) (hr : r ≤ w) :
    (p <<< r % 2 ^ w) ||| (p >>> (w - r)) = (p * 2 ^ r + p / 2 ^ (w - r)) % 2 ^ w := by
  have hw : 2 ^ w = 2 ^ (w - r) * 2 ^ r := by rw [← pow_add]; congr 1; omega
  have h1 : p <<< r % 2 ^ w = (p % 2 ^ (w - r)) <<< r := by
    rw [Nat.shiftLeft_eq, Nat.shiftLeft_eq, hw, Nat.mul_mod_mul_right]
  have hlt : p / 2 ^ (w - r) < 2 ^ r := by
    rw [Nat.div_lt_iff_lt_mul (by positivity), mul_comm, ← hw]; exact hp
  have h2 : p >>> (w - r) < 2 ^ r := by rw [Nat.shiftRight_eq_div_pow]; exact hlt
  have hm : p % 2 ^ (w - r) < 2 ^ (w - r) := Nat.mod_lt _ (by positivity)
  rw [h1, ← Nat.shiftLeft_add_eq_or_of_lt h2, Nat.shiftLeft_eq, Nat.shiftRight_eq_div_pow]
  have hmul : p * 2 ^ r % 2 ^ w = p % 2 ^ (w - r) * 2 ^ r := by rw [hw, Nat.mul_mod_mul_right]
  rw [Nat.add_mod (p * 2 ^ r), hmul, Nat.mod_eq_of_lt (a := p / 2 ^ (w - r))]
  · refine (Nat.mod_eq_of_lt ?_).symm
    rw [hw]
    have hle : (p % 2 ^ (w - r) + 1) * 2 ^ r ≤ 2 ^ (w - r) * 2 ^ r := Nat.mul_le_mul_right _ hm
    rw [add_mul, one_mul] at hle
    omega
  · rw [hw]
    have : 1 * 2 ^ r ≤ 2 ^ (w - r) * 2 ^ r := Nat.mul_le_mul_right _ (Nat.one_le_two_pow)
    omega

theorem computes_rotated (T : Ty) {b : BitVec T.width} {n : Nat} (h : b.toNat = n % 2 ^ T.width) :
    Computes { ty := T, bits := b.setWidth 64 } T n := by
  have h64 : 2 ^ T.width ≤ 2 ^ 64 := Nat.pow_le_pow_right (by decide) (width_le T)
  refine ⟨rfl, ?_⟩
  rw [patternOf_nat, BitVec.toNat_setWidth, ← h]
  exact Nat.mod_eq_of_lt (lt_of_lt_of_le b.isLt h64)

theorem rol_computes (x y : TVal) (h : x.bits.toNat < 2 ^ x.ty.width) :
    Computes (x.rol y) x.ty ((x.bits.toNat * 2 ^ (shiftCount y % x.ty.width) +
      x.bits.toNat / 2 ^ (x.ty.width - shiftCount y % x.ty.width) : Nat) : Int) := by
  have hr : shiftCount y % x.ty.width < x.ty.width := Nat.mod_lt _ (width_pos _)
  refine computes_rotated x.ty ?_
  rw [BitVec.toNat_or, BitVec.toNat_shiftLeft, BitVec.toNat_ushiftRight, BitVec.toNat_setWidth, Nat.mod_eq_of_lt h]
  exact rotate_nat _ _ _ h (le_of_lt hr)

theorem ror_computes (x y : TVal) (h : x.bits.toNat < 2 ^ x.ty.width) :
    Computes (x.ror y) x.ty ((x.bits.toNat / 2 ^ (shiftCount y % x.ty.width) +
      x.bits.toNat * 2 ^ (x.ty.width - shiftCount y % x.ty.width) : Nat) : Int) := by
  have hr : shiftCount y % x.ty.width < x.ty.width := Nat.mod_lt _ (width_pos _)
  refine computes_rotated x.ty ?_
  rw [BitVec.toNat_or, BitVec.toNat_shiftLeft, BitVec.toNat_ushiftRight, BitVec.toNat_setWidth, Nat.mod_eq_of_lt h,
    Nat.or_comm]
  have := rotate_nat x.bits.toNat x.ty.width (x.ty.width - shiftCount y % x.ty.width) h (by omega)
  rw [Nat.sub_sub_self (le_of_lt hr), add_comm] at this
  exact this

theorem computes_rol (T : Ty) (v w : TVal) :
    Computes ((cast T v).rol (cast T w)) T
      ((patternOf T (wrapTo T v.val) * 2 ^ (patternOf T (wrapTo T w.val) % T.width) +
        patternOf T (wrapTo T v.val) / 2 ^ (T.width - patternOf T (wrapTo T w.val) % T.width) : Nat) : Int) := by
  have h := rol_computes (cast T v) (cast T w) (by rw [cast_bits]; exact patternOf_lt T _)
  rwa [cast_bits, shiftCount_cast] at h

theorem computes_ror (T : Ty) (v w : TVal) :
    Computes ((cast T v).ror (cast T w)) T
      ((patternOf T (wrapTo T v.val) / 2 ^ (patternOf T (wrapTo T w.val) % T.width) +
        patternOf T (wrapTo T v.val) * 2 ^ (T.width - patternOf T (wrapTo T w.val) % T.width) : Nat) : Int) := by
  have h := ror_computes (cast T v) (cast T w) (by rw [cast_bits]; exact patternOf_lt T _)
  rwa [cast_bits, shiftCount_cast] at h

theorem computes_quot (T : Ty) (v w : TVal) :
    Computes ((cast T v).quot (cast T w)) T ((wrapTo T v.val).tdiv (wrapTo T w.val)) := by
  rw [TVal.quot, val_cast, val_cast]; exact computes_ofInt T _

theorem computes_rem (T : Ty) (v w : TVal) :
    Computes ((cast T v).rem (cast T w)) T
      (wrapTo T v.val - (wrapTo T v.val).tdiv (wrapTo T w.val) * wrapTo T w.val) := by
  rw [TVal.rem, val_cast, val_cast]; exact computes_ofInt T _

/-! ### Addresses -/

theorem ofU32_val (a : BitVec 32) : (TVal.ofU32 a).val = a.toNat := by
  have := a.isLt
  rw [val_of_bits, TVal.ofU32, wrapTo]
  simp [Ty.signed, Ty.width, Ty.size, BitVec.toNat_setWidth]
  omega

theorem ofInt_sub_mod (x y : Int) (h : x % 2 ^ 32 = y % 2 ^ 32) : BitVec.ofInt 32 x = BitVec.ofInt 32 y := by
  apply BitVec.eq_of_toNat_eq
  simp only [BitVec.toNat_ofInt]
  norm_num at h ⊢
  rw [h]

theorem toU32_eq (v : TVal) : v.toU32 = BitVec.ofInt 32 v.val := by
  apply BitVec.eq_of_toNat_eq
  have h := ofInt_bits .u32 v.val
  rw [TVal.toU32, BitVec.toNat_setWidth, cast, h, BitVec.toNat_ofInt]
  have := patternOf_lt .u32 v.val
  rw [Nat.mod_eq_of_lt (by simpa [Ty.width, Ty.size] using this)]
  simp [patternOf, Ty.width, Ty.size]

/-- Alignment is the multiple of the size at or below (R9). -/
theorem align_toNat (T : Ty) (a : Addr) : (align T a).toNat = alignNat T a.toNat := by
  have key : ∀ k : Nat, k ≤ 3 → (a &&& ~~~(BitVec.ofNat 32 (2 ^ k - 1))).toNat = a.toNat / 2 ^ k * 2 ^ k := by
    intro k hk
    have h : a &&& ~~~(BitVec.ofNat 32 (2 ^ k - 1)) = (a >>> k) <<< k := by
      apply BitVec.eq_of_getLsbD_eq
      intro i hi
      have h3 : (BitVec.ofNat 32 (2 ^ k - 1)).getLsbD i = decide (i < k) := by
        have : ∀ k' : Fin 4, ∀ j : Fin 32, (BitVec.ofNat 32 (2 ^ k'.val - 1)).getLsbD j.val = decide (j.val < k'.val) := by decide
        exact this ⟨k, by omega⟩ ⟨i, hi⟩
      simp only [BitVec.getLsbD_and, BitVec.getLsbD_not, BitVec.getLsbD_shiftLeft, BitVec.getLsbD_ushiftRight, h3]
      by_cases h2 : i < k
      · simp [h2]
      · simp [h2, hi, show k + (i - k) = i by omega]
    rw [h]
    have hlt := a.isLt
    rw [BitVec.toNat_shiftLeft, BitVec.toNat_ushiftRight, Nat.shiftLeft_eq, Nat.shiftRight_eq_div_pow]
    exact Nat.mod_eq_of_lt (lt_of_le_of_lt (Nat.div_mul_le_self _ _) hlt)
  unfold align alignNat
  cases T
  · exact key 0 (by decide)
  · exact key 0 (by decide)
  · exact key 1 (by decide)
  · exact key 1 (by decide)
  · exact key 2 (by decide)
  · exact key 2 (by decide)
  · exact key 3 (by decide)
  · exact key 3 (by decide)

/-! ### Elements -/

theorem ofBytes_bits (order : ByteOrder) (T : Ty) (bs : List Byte) (h : bs.length = T.size) :
    (TVal.ofBytes order T bs).bits.toNat = bytesToNat order bs := by
  have h1 := bytesToNat_lt order bs
  rw [h, pow256_size] at h1
  have h64 : 2 ^ T.width ≤ 2 ^ 64 := Nat.pow_le_pow_right (by decide) (width_le T)
  rw [TVal.ofBytes, BitVec.toNat_ofNat]
  exact Nat.mod_eq_of_lt (lt_of_lt_of_le h1 h64)

theorem elem_bits_lt (order : ByteOrder) (l : Line) (T : Ty) (k : Nat) : (elem order l T k).bits.toNat < 2 ^ T.width := by
  have h1 := bytesToNat_lt order (slice l (k * T.size) T.size)
  rw [elem, ofBytes_bits _ _ _ (slice_length _ _ _)]
  rwa [slice_length, pow256_size] at h1

/-- Reading bytes as a typed value and writing them again (R60). -/
theorem bytes_ofBytes (order : ByteOrder) (T : Ty) (bs : List Byte) (h : bs.length = T.size) :
    (TVal.ofBytes order T bs).bytes order = bs := by
  rw [TVal.bytes, ofBytes_bits order T bs h]
  show natToBytes order T.size _ = bs
  rw [← h]; exact natToBytes_bytesToNat order bs

theorem bytes_elem (order : ByteOrder) (l : Line) (T : Ty) (k : Nat) :
    (elem order l T k).bytes order = slice l (k * T.size) T.size :=
  bytes_ofBytes order T _ (slice_length _ _ _)

/-- Byte `j` of a concatenation of strings of one length. -/
theorem getD_flatMap {g : Nat → List Byte} {m : Nat} (hm : 0 < m) (hg : ∀ k, (g k).length = m) (n : Nat) :
    ((List.range n).flatMap g).length = n * m ∧
    ∀ j, j < n * m → ((List.range n).flatMap g).getD j 0 = (g (j / m)).getD (j % m) 0 := by
  induction n with
  | zero => simp
  | succ n ih =>
    obtain ⟨hl, hj⟩ := ih
    rw [List.range_succ, List.flatMap_append]
    refine ⟨?_, fun j hjn => ?_⟩
    · simp only [List.length_append, hl, List.flatMap_singleton, hg]; ring
    · by_cases h : j < n * m
      · rw [List.getD_append _ _ _ _ (by rw [hl]; exact h)]
        exact hj j h
      · rw [List.getD_append_right _ _ _ _ (by rw [hl]; omega), hl, List.flatMap_singleton]
        have hq : j / m = n := by
          rw [Nat.div_eq_iff hm]
          constructor
          · rw [mul_comm]; rw [mul_comm] at h; omega
          · have : (n + 1) * m = n * m + m := by ring
            have h2 : m * n = n * m := by ring
            omega
        have hr : j % m = j - n * m := by
          have := Nat.div_add_mod j m
          rw [hq] at this
          have h2 : m * n = n * m := by ring
          omega
        rw [hq, hr]

theorem list_ext_getD {l m : List Byte} (hl : l.length = m.length) (h : ∀ j, j < l.length → l.getD j 0 = m.getD j 0) :
    l = m := by
  apply List.ext_getElem hl
  intro j h1 h2
  have := h j h1
  rwa [List.getD_eq_getElem _ _ h1, List.getD_eq_getElem _ _ h2] at this

/-- The bytes of a line made of elements (R28). -/
theorem lineOfElems_toList (order : ByteOrder) (T : Ty) (f : Nat → TVal) (z : Nat → Int)
    (h : ∀ k, k < T.lanes → Computes (f k) T (z k)) : (lineOfElems order T f).toList = bytesOfLanes order T z := by
  have hs := size_pos T
  have hlen := size_mul_lanes T
  obtain ⟨h1, h2⟩ := getD_flatMap (g := fun k => bytesOfInt order T (z k)) hs (fun k => bytesOfInt_length order T (z k)) T.lanes
  apply list_ext_getD
  · rw [line_toList_length, bytesOfLanes, h1, hlen]
  · intro j hj
    rw [line_toList_length] at hj
    have hk : j / T.size < T.lanes := by rw [Nat.div_lt_iff_lt_mul hs, hlen]; exact hj
    have hc := h _ hk
    rw [line_toList_getD _ hj, lineOfElems, byteAt_tabulate _ hj, bytesOfLanes, h2 j (by rw [hlen]; exact hj)]
    have hty := hc.1
    rw [bytes_of_bits (z := z (j / T.size)) (by rw [hc.2, hty]), hty]

/-- What bytes denote, by weights, is what reading them least or most significant first gives. -/
theorem bytesToNat_eq_denoted (order : ByteOrder) (bs : List Byte) : bytesToNat order bs = denoted order bs := by
  have little : ∀ l : List Byte, leNat l = ((List.range l.length).map fun j => (l.getD j 0).toNat * 256 ^ j).sum := by
    intro l
    induction l with
    | nil => rfl
    | cons b l ih =>
      simp only [leNat, ih, List.length_cons, List.range_succ_eq_map, List.map_cons, List.map_map, List.sum_cons,
        List.getD_cons_zero, Nat.pow_zero, Nat.mul_one, ← List.sum_map_mul_left]
      congr 3
      funext j
      simp only [Function.comp, List.getD_cons_succ, Nat.pow_succ]
      ring
  cases order with
  | little => exact little bs
  | big =>
    show leNat bs.reverse = _
    have sum : ∀ f : Nat → Nat, ((List.range bs.length).map f).sum = ∑ j ∈ Finset.range bs.length, f j := fun f => rfl
    rw [little, denoted, List.length_reverse, sum, sum, ← Finset.sum_range_reflect]
    refine Finset.sum_congr rfl fun j hj => ?_
    have hlt : j < bs.length := Finset.mem_range.1 hj
    have hrev : bs.reverse.getD (bs.length - 1 - j) 0 = bs.getD j 0 := by
      rw [List.getD_eq_getElem _ _ (by simp; omega), List.getD_eq_getElem _ _ hlt, List.getElem_reverse]
      congr 1
      omega
    rw [hrev]

end Sys2Proof.Machine
end

