-- ==== Sys2Proof/Laws/Encoding.lean ====
section
/-! SUPPORT. The fields of an encoded word: what `field` and the register fields read from a word that `pack` made. -/

namespace Sys2Proof

theorem pack_toNat {g : Nat} (hg : g < 16) (a b : Fin 64) {low : Nat} (hl : low < 2 ^ 16) :
    (pack g a b low).toNat = g * 2 ^ 28 + a.val * 2 ^ 22 + b.val * 2 ^ 16 + low := by
  rw [pack, BitVec.toNat_ofNat, Nat.mod_eq_of_lt]
  omega

/-- The group (R91). -/
theorem field_pack_group {g : Nat} (hg : g < 16) (a b : Fin 64) {low : Nat} (hl : low < 2 ^ 16) :
    field (pack g a b low) 31 28 = g := by
  rw [field, pack_toNat hg a b hl]
  omega

/-- A field of the low 16 bits. -/
theorem field_pack_low {g : Nat} (hg : g < 16) (a b : Fin 64) {low : Nat} (hl : low < 2 ^ 16) {hi lo : Nat} (h : hi < 16)
    (hlo : lo ≤ hi) : field (pack g a b low) hi lo = low / 2 ^ lo % 2 ^ (hi + 1 - lo) := by
  have hsplit : (2 : Nat) ^ 16 = 2 ^ lo * (2 ^ (hi + 1 - lo) * 2 ^ (15 - hi)) := by
    rw [← pow_add, ← pow_add]; congr 1; omega
  rw [field, pack_toNat hg a b hl]
  have e : g * 2 ^ 28 + a.val * 2 ^ 22 + b.val * 2 ^ 16 + low =
      low + 2 ^ lo * (2 ^ (hi + 1 - lo) * (2 ^ (15 - hi) * (g * 2 ^ 12 + a.val * 2 ^ 6 + b.val))) := by
    have : g * 2 ^ 28 + a.val * 2 ^ 22 + b.val * 2 ^ 16 = 2 ^ 16 * (g * 2 ^ 12 + a.val * 2 ^ 6 + b.val) := by ring
    rw [this, hsplit]; ring
  rw [e, Nat.add_mul_div_left _ _ (by positivity), Nat.add_mul_mod_self_left]

theorem fieldA_pack {g : Nat} (hg : g < 16) (a b : Fin 64) {low : Nat} (hl : low < 2 ^ 16) :
    fieldA (pack g a b low) = a := by
  apply Fin.ext
  simp only [fieldA, regField, pack_toNat hg a b hl]
  omega

theorem fieldB_pack {g : Nat} (hg : g < 16) (a b : Fin 64) {low : Nat} (hl : low < 2 ^ 16) :
    fieldB (pack g a b low) = b := by
  apply Fin.ext
  simp only [fieldB, regField, pack_toNat hg a b hl]
  omega

theorem fieldC_pack {g : Nat} (hg : g < 16) (a b : Fin 64) {low : Nat} (hl : low < 2 ^ 16) :
    (fieldC (pack g a b low)).val = low / 2 ^ 10 := by
  simp only [fieldC, regField, pack_toNat hg a b hl]
  omega

theorem fieldD_pack {g : Nat} (hg : g < 16) (a b : Fin 64) {low : Nat} (hl : low < 2 ^ 16) :
    (fieldD (pack g a b low)).val = low / 2 ^ 4 % 64 := by
  simp only [fieldD, regField, pack_toNat hg a b hl]
  omega

end Sys2Proof
end

