-- ==== Sys2Proof/Laws/Memory.lean ====
section
/-! SUPPORT. Main memory: what a write changes, the canonical form, lines. -/

namespace Sys2Proof.Machine

/-! ### Addresses and lines -/

theorem lineOf_toNat (a : Addr) : (lineOf a).toNat = a.toNat / 128 := by
  have := a.isLt
  simp only [lineOf, BitVec.extractLsb'_toNat, Nat.shiftRight_eq_div_pow]
  omega

theorem offsetOf_lt (a : Addr) : offsetOf a < 128 := Nat.mod_lt _ (by decide)

theorem lineAddr_toNat (b : LineNo) {j : Nat} (h : j < 128) : (lineAddr b j).toNat = b.toNat * 128 + j := by
  have := b.isLt
  simp only [lineAddr, BitVec.toNat_ofNat]
  omega

@[simp] theorem lineOf_lineAddr (b : LineNo) {j : Nat} (h : j < 128) : lineOf (lineAddr b j) = b := by
  apply BitVec.eq_of_toNat_eq
  rw [lineOf_toNat, lineAddr_toNat b h]
  omega

@[simp] theorem offsetOf_lineAddr (b : LineNo) {j : Nat} (h : j < 128) : offsetOf (lineAddr b j) = j := by
  rw [offsetOf, lineAddr_toNat b h]
  omega

@[simp] theorem lineAddr_lineOf (a : Addr) : lineAddr (lineOf a) (offsetOf a) = a := by
  apply BitVec.eq_of_toNat_eq
  rw [lineAddr_toNat _ (offsetOf_lt a), lineOf_toNat, offsetOf]
  omega

/-! ### One byte -/

theorem readAt_below {lo : Nat} {m : Memory} (h : m.wfFrom lo = true) {a : Nat} (ha : a < lo) :
    m.readAt a = unlistedByte := by
  induction m generalizing lo with
  | nil => rfl
  | cons c m ih =>
    obtain ⟨k, v⟩ := c
    simp only [Memory.wfFrom, Bool.and_eq_true, decide_eq_true_eq] at h
    simp only [Memory.readAt]
    rw [if_neg (by omega)]
    exact ih h.2 (by omega)

theorem wfFrom_mono {lo lo' : Nat} {m : Memory} (h : m.wfFrom lo = true) (hl : lo' ≤ lo) : m.wfFrom lo' = true := by
  cases m with
  | nil => rfl
  | cons c m =>
    obtain ⟨k, v⟩ := c
    simp only [Memory.wfFrom, Bool.and_eq_true, decide_eq_true_eq] at h ⊢
    exact ⟨⟨⟨by omega, h.1.1.2⟩, h.1.2⟩, h.2⟩

theorem readAt_cellsOf (a : Nat) (v : Byte) (m : Memory) (x : Nat) (h : m.readAt a = unlistedByte) :
    Memory.readAt (cellsOf a v ++ m) x = if x = a then v else m.readAt x := by
  unfold cellsOf
  by_cases hv : v = unlistedByte
  · by_cases hx : x = a
    · simp [hv, hx, h]
    · simp [hv, hx]
  · by_cases hx : x = a
    · simp [hv, hx, Memory.readAt]
    · simp [hv, hx, Memory.readAt, Ne.symm hx]

/-- A byte read after a byte is written. -/
theorem readAt_writeAt {lo : Nat} {m : Memory} (h : m.wfFrom lo = true) (a : Nat) (v : Byte) (x : Nat) :
    (m.writeAt a v).readAt x = if x = a then v else m.readAt x := by
  induction m generalizing lo with
  | nil =>
    have := readAt_cellsOf a v [] x rfl
    simpa [Memory.writeAt] using this
  | cons c m ih =>
    obtain ⟨k, u⟩ := c
    simp only [Memory.wfFrom, Bool.and_eq_true, decide_eq_true_eq] at h
    have hm := h.2
    simp only [Memory.writeAt]
    by_cases hk : k < a
    · rw [if_pos hk]
      simp only [Memory.readAt, ih hm]
      by_cases hx : k = x
      · subst hx; simp [Nat.ne_of_lt hk]
      · simp [hx]
    · rw [if_neg hk]
      by_cases he : k = a
      · subst he
        rw [if_pos rfl, readAt_cellsOf k v m x (readAt_below hm (by omega))]
        by_cases hx : x = k
        · simp [hx]
        · simp [hx, Memory.readAt, Ne.symm hx]
      · rw [if_neg he]
        apply readAt_cellsOf
        simp only [Memory.readAt, if_neg he]
        exact readAt_below hm (by omega)

theorem wfFrom_cellsOf {lo a : Nat} {m : Memory} (h : m.wfFrom (a + 1) = true) (hl : lo ≤ a) (ha : a < 2 ^ 32) (v : Byte) :
    Memory.wfFrom lo (cellsOf a v ++ m) = true := by
  unfold cellsOf
  by_cases hv : v = unlistedByte
  · simpa [hv] using wfFrom_mono h (by omega)
  · simp only [hv, if_false, List.cons_append, List.nil_append, Memory.wfFrom, Bool.and_eq_true, decide_eq_true_eq]
    exact ⟨⟨⟨hl, ha⟩, hv⟩, h⟩

theorem wfFrom_writeAt {lo : Nat} {m : Memory} (h : m.wfFrom lo = true) {a : Nat} (hl : lo ≤ a) (ha : a < 2 ^ 32) (v : Byte) :
    (m.writeAt a v).wfFrom lo = true := by
  induction m generalizing lo with
  | nil => simpa [Memory.writeAt] using wfFrom_cellsOf (m := []) rfl hl ha v
  | cons c m ih =>
    obtain ⟨k, u⟩ := c
    have h' := h
    simp only [Memory.wfFrom, Bool.and_eq_true, decide_eq_true_eq] at h
    simp only [Memory.writeAt]
    by_cases hk : k < a
    · rw [if_pos hk]
      simp only [Memory.wfFrom, Bool.and_eq_true, decide_eq_true_eq]
      exact ⟨h.1, ih h.2 (by omega)⟩
    · rw [if_neg hk]
      by_cases he : k = a
      · subst he
        rw [if_pos rfl]
        exact wfFrom_cellsOf h.2 hl ha v
      · rw [if_neg he]
        refine wfFrom_cellsOf (m := (k, u) :: m) ?_ hl ha v
        simp only [Memory.wfFrom, Bool.and_eq_true, decide_eq_true_eq]
        exact ⟨⟨⟨by omega, h.1.1.2⟩, h.1.2⟩, h.2⟩

/-- A byte read after a byte is written (R61). -/
theorem read_write {m : Memory} (h : m.wf = true) (a : Addr) (v : Byte) (x : Addr) :
    (m.write a v).read x = if x = a then v else m.read x := by
  simp only [Memory.write, Memory.read, readAt_writeAt h, BitVec.toNat_inj]

/-- A write keeps the canonical form. -/
theorem wf_write {m : Memory} (h : m.wf = true) (a : Addr) (v : Byte) : (m.write a v).wf = true :=
  wfFrom_writeAt h (Nat.zero_le _) a.isLt v

/-! ### Byte strings and lines -/

theorem wf_writeBytes {m : Memory} (h : m.wf = true) (a : Addr) (bs : List Byte) : (m.writeBytes a bs).wf = true := by
  induction bs generalizing m a with
  | nil => exact h
  | cons v vs ih => exact ih (wf_write h a v) (a + 1)

/-- A byte read after a byte string is written (R61): byte `i` of the string stands at `a + i`. -/
theorem read_writeBytes {m : Memory} (h : m.wf = true) (a : Addr) (bs : List Byte) (hb : bs.length < 2 ^ 32) (x : Addr) :
    (m.writeBytes a bs).read x = if (x - a).toNat < bs.length then bs.getD (x - a).toNat 0 else m.read x := by
  induction bs generalizing m a with
  | nil => simp [Memory.writeBytes]
  | cons v vs ih =>
    simp only [List.length_cons] at hb ⊢
    rw [Memory.writeBytes, ih (wf_write h a v) (a + 1) (by omega), read_write h]
    by_cases hx : x = a
    · subst hx
      have h1 : (x - (x + 1)).toNat = 2 ^ 32 - 1 := by
        have : x - (x + 1) = -1 := by bv_omega
        rw [this]; rfl
      have h2 : (x - x).toNat = 0 := by simp
      rw [h1, h2, if_neg (by omega), if_pos rfl, if_pos (by omega)]
      rfl
    · have h1 : (x - a).toNat = (x - (a + 1)).toNat + 1 := by bv_omega
      rw [h1, if_neg hx]
      by_cases hl : (x - (a + 1)).toNat < vs.length
      · rw [if_pos hl, if_pos (by omega)]; rfl
      · rw [if_neg hl, if_neg (by omega)]

theorem sub_lineAddr_toNat (b : LineNo) (x : Addr) :
    ((x - lineAddr b 0).toNat < 128 ↔ lineOf x = b) ∧ (lineOf x = b → (x - lineAddr b 0).toNat = offsetOf x) := by
  have hb := b.isLt
  have hx := x.isLt
  have h0 := lineAddr_toNat b (j := 0) (by decide)
  have hl : lineOf x = b ↔ x.toNat / 128 = b.toNat := by rw [← BitVec.toNat_inj, lineOf_toNat]
  rw [hl, BitVec.toNat_sub, h0, offsetOf]
  constructor
  · constructor <;> intro h <;> omega
  · intro h; omega

/-- A byte read after a line is written (R61). -/
theorem read_writeLine {m : Memory} (h : m.wf = true) (b : LineNo) (l : Line) (x : Addr) :
    (m.writeLine b l).read x = if lineOf x = b then byteAt l (offsetOf x) else m.read x := by
  have ⟨h1, h2⟩ := sub_lineAddr_toNat b x
  rw [Memory.writeLine, read_writeBytes h _ _ (by simp), line_toList_length]
  by_cases hx : lineOf x = b
  · rw [if_pos (h1.2 hx), if_pos hx, h2 hx, line_toList_getD l (offsetOf_lt x)]
  · rw [if_neg (fun hh => hx (h1.1 hh)), if_neg hx]

theorem wf_writeLine {m : Memory} (h : m.wf = true) (b : LineNo) (l : Line) : (m.writeLine b l).wf = true :=
  wf_writeBytes h _ _

/-- The bytes of a line of memory (R61). -/
theorem byteAt_line (m : Memory) (b : LineNo) {j : Nat} (h : j < 128) : byteAt (m.line b) j = m.read (lineAddr b j) :=
  byteAt_tabulate _ h

/-- The canonical form is canonical: memories with the same bytes are the same list. -/
theorem memory_ext {lo : Nat} {m n : Memory} (hm : m.wfFrom lo = true) (hn : n.wfFrom lo = true)
    (h : ∀ a, m.readAt a = n.readAt a) : m = n := by
  induction m generalizing lo n with
  | nil =>
    cases n with
    | nil => rfl
    | cons c n =>
      obtain ⟨k, v⟩ := c
      simp only [Memory.wfFrom, Bool.and_eq_true, decide_eq_true_eq] at hn
      have := h k
      simp only [Memory.readAt, if_true] at this
      exact absurd this.symm hn.1.2
  | cons c m ih =>
    obtain ⟨k, v⟩ := c
    simp only [Memory.wfFrom, Bool.and_eq_true, decide_eq_true_eq] at hm
    cases n with
    | nil =>
      have := h k
      simp only [Memory.readAt, if_true] at this
      exact absurd this hm.1.2
    | cons d n =>
      obtain ⟨k', v'⟩ := d
      simp only [Memory.wfFrom, Bool.and_eq_true, decide_eq_true_eq] at hn
      have hk : k = k' := by
        rcases Nat.lt_trichotomy k k' with hlt | he | hgt
        · have := h k
          simp only [Memory.readAt, if_true, if_neg (Nat.ne_of_gt hlt)] at this
          rw [readAt_below hn.2 (by omega)] at this
          exact absurd this hm.1.2
        · exact he
        · have := h k'
          simp only [Memory.readAt, if_true, if_neg (Nat.ne_of_gt hgt)] at this
          rw [readAt_below hm.2 (by omega)] at this
          exact absurd this.symm hn.1.2
      subst hk
      have hv : v = v' := by simpa [Memory.readAt] using h k
      subst hv
      have : m = n := by
        refine ih hm.2 hn.2 fun a => ?_
        by_cases ha : k = a
        · subst ha; rw [readAt_below hm.2 (by omega), readAt_below hn.2 (by omega)]
        · simpa [Memory.readAt, ha] using h a
      rw [this]

end Sys2Proof.Machine
end

