-- ==== Sys2Proof/Laws/State.lean ====
section
/-! SUPPORT. One lemma per field per update of the state, so that no later proof unfolds a record update; and what a reader
of one register sees after a write of another. -/

namespace Sys2Proof.Machine

/-! ### `setDlar` -/

@[simp] theorem State.setDlar_config (s : State) (k : PhysReg) (D : Dlar) : (s.setDlar k D).config = s.config := by unfold State.setDlar; split <;> rfl
@[simp] theorem State.setDlar_mode (s : State) (k : PhysReg) (D : Dlar) : (s.setDlar k D).mode = s.mode := by unfold State.setDlar; split <;> rfl
@[simp] theorem State.setDlar_ilars (s : State) (k : PhysReg) (D : Dlar) : (s.setDlar k D).ilars = s.ilars := by unfold State.setDlar; split <;> rfl
@[simp] theorem State.setDlar_ivUser (s : State) (k : PhysReg) (D : Dlar) : (s.setDlar k D).ivUser = s.ivUser := by unfold State.setDlar; split <;> rfl
@[simp] theorem State.setDlar_ivSupervisor (s : State) (k : PhysReg) (D : Dlar) : (s.setDlar k D).ivSupervisor = s.ivSupervisor := by unfold State.setDlar; split <;> rfl
@[simp] theorem State.setDlar_ie (s : State) (k : PhysReg) (D : Dlar) : (s.setDlar k D).ie = s.ie := by unfold State.setDlar; split <;> rfl
@[simp] theorem State.setDlar_xct (s : State) (k : PhysReg) (D : Dlar) : (s.setDlar k D).xct = s.xct := by unfold State.setDlar; split <;> rfl
@[simp] theorem State.setDlar_swiarg0 (s : State) (k : PhysReg) (D : Dlar) : (s.setDlar k D).swiarg0 = s.swiarg0 := by unfold State.setDlar; split <;> rfl
@[simp] theorem State.setDlar_swiarg1 (s : State) (k : PhysReg) (D : Dlar) : (s.setDlar k D).swiarg1 = s.swiarg1 := by unfold State.setDlar; split <;> rfl
@[simp] theorem State.setDlar_swiarg2 (s : State) (k : PhysReg) (D : Dlar) : (s.setDlar k D).swiarg2 = s.swiarg2 := by unfold State.setDlar; split <;> rfl
@[simp] theorem State.setDlar_swiarg3 (s : State) (k : PhysReg) (D : Dlar) : (s.setDlar k D).swiarg3 = s.swiarg3 := by unfold State.setDlar; split <;> rfl
@[simp] theorem State.setDlar_mem (s : State) (k : PhysReg) (D : Dlar) : (s.setDlar k D).mem = s.mem := by unfold State.setDlar; split <;> rfl
@[simp] theorem State.setDlar_ioLog (s : State) (k : PhysReg) (D : Dlar) : (s.setDlar k D).ioLog = s.ioLog := by unfold State.setDlar; split <;> rfl
@[simp] theorem State.setDlar_ioScript (s : State) (k : PhysReg) (D : Dlar) : (s.setDlar k D).ioScript = s.ioScript := by unfold State.setDlar; split <;> rfl
@[simp] theorem State.setDlar_irqScript (s : State) (k : PhysReg) (D : Dlar) : (s.setDlar k D).irqScript = s.irqScript := by unfold State.setDlar; split <;> rfl
@[simp] theorem State.setDlar_steps (s : State) (k : PhysReg) (D : Dlar) : (s.setDlar k D).steps = s.steps := by unfold State.setDlar; split <;> rfl

/-! ### `setIlar` -/

@[simp] theorem State.setIlar_config (s : State) (k : PhysReg) (I : Ilar) : (s.setIlar k I).config = s.config := by unfold State.setIlar; split <;> rfl
@[simp] theorem State.setIlar_mode (s : State) (k : PhysReg) (I : Ilar) : (s.setIlar k I).mode = s.mode := by unfold State.setIlar; split <;> rfl
@[simp] theorem State.setIlar_dlars (s : State) (k : PhysReg) (I : Ilar) : (s.setIlar k I).dlars = s.dlars := by unfold State.setIlar; split <;> rfl
@[simp] theorem State.setIlar_ivUser (s : State) (k : PhysReg) (I : Ilar) : (s.setIlar k I).ivUser = s.ivUser := by unfold State.setIlar; split <;> rfl
@[simp] theorem State.setIlar_ivSupervisor (s : State) (k : PhysReg) (I : Ilar) : (s.setIlar k I).ivSupervisor = s.ivSupervisor := by unfold State.setIlar; split <;> rfl
@[simp] theorem State.setIlar_ie (s : State) (k : PhysReg) (I : Ilar) : (s.setIlar k I).ie = s.ie := by unfold State.setIlar; split <;> rfl
@[simp] theorem State.setIlar_xct (s : State) (k : PhysReg) (I : Ilar) : (s.setIlar k I).xct = s.xct := by unfold State.setIlar; split <;> rfl
@[simp] theorem State.setIlar_swiarg0 (s : State) (k : PhysReg) (I : Ilar) : (s.setIlar k I).swiarg0 = s.swiarg0 := by unfold State.setIlar; split <;> rfl
@[simp] theorem State.setIlar_swiarg1 (s : State) (k : PhysReg) (I : Ilar) : (s.setIlar k I).swiarg1 = s.swiarg1 := by unfold State.setIlar; split <;> rfl
@[simp] theorem State.setIlar_swiarg2 (s : State) (k : PhysReg) (I : Ilar) : (s.setIlar k I).swiarg2 = s.swiarg2 := by unfold State.setIlar; split <;> rfl
@[simp] theorem State.setIlar_swiarg3 (s : State) (k : PhysReg) (I : Ilar) : (s.setIlar k I).swiarg3 = s.swiarg3 := by unfold State.setIlar; split <;> rfl
@[simp] theorem State.setIlar_mem (s : State) (k : PhysReg) (I : Ilar) : (s.setIlar k I).mem = s.mem := by unfold State.setIlar; split <;> rfl
@[simp] theorem State.setIlar_ioLog (s : State) (k : PhysReg) (I : Ilar) : (s.setIlar k I).ioLog = s.ioLog := by unfold State.setIlar; split <;> rfl
@[simp] theorem State.setIlar_ioScript (s : State) (k : PhysReg) (I : Ilar) : (s.setIlar k I).ioScript = s.ioScript := by unfold State.setIlar; split <;> rfl
@[simp] theorem State.setIlar_irqScript (s : State) (k : PhysReg) (I : Ilar) : (s.setIlar k I).irqScript = s.irqScript := by unfold State.setIlar; split <;> rfl
@[simp] theorem State.setIlar_steps (s : State) (k : PhysReg) (I : Ilar) : (s.setIlar k I).steps = s.steps := by unfold State.setIlar; split <;> rfl

/-! ### `setIv` -/

@[simp] theorem State.setIv_config (s : State) (m : Mode) (b : Bool) : (s.setIv m b).config = s.config := by cases m <;> rfl
@[simp] theorem State.setIv_mode (s : State) (m : Mode) (b : Bool) : (s.setIv m b).mode = s.mode := by cases m <;> rfl
@[simp] theorem State.setIv_ilars (s : State) (m : Mode) (b : Bool) : (s.setIv m b).ilars = s.ilars := by cases m <;> rfl
@[simp] theorem State.setIv_dlars (s : State) (m : Mode) (b : Bool) : (s.setIv m b).dlars = s.dlars := by cases m <;> rfl
@[simp] theorem State.setIv_ie (s : State) (m : Mode) (b : Bool) : (s.setIv m b).ie = s.ie := by cases m <;> rfl
@[simp] theorem State.setIv_xct (s : State) (m : Mode) (b : Bool) : (s.setIv m b).xct = s.xct := by cases m <;> rfl
@[simp] theorem State.setIv_swiarg0 (s : State) (m : Mode) (b : Bool) : (s.setIv m b).swiarg0 = s.swiarg0 := by cases m <;> rfl
@[simp] theorem State.setIv_swiarg1 (s : State) (m : Mode) (b : Bool) : (s.setIv m b).swiarg1 = s.swiarg1 := by cases m <;> rfl
@[simp] theorem State.setIv_swiarg2 (s : State) (m : Mode) (b : Bool) : (s.setIv m b).swiarg2 = s.swiarg2 := by cases m <;> rfl
@[simp] theorem State.setIv_swiarg3 (s : State) (m : Mode) (b : Bool) : (s.setIv m b).swiarg3 = s.swiarg3 := by cases m <;> rfl
@[simp] theorem State.setIv_mem (s : State) (m : Mode) (b : Bool) : (s.setIv m b).mem = s.mem := by cases m <;> rfl
@[simp] theorem State.setIv_ioLog (s : State) (m : Mode) (b : Bool) : (s.setIv m b).ioLog = s.ioLog := by cases m <;> rfl
@[simp] theorem State.setIv_ioScript (s : State) (m : Mode) (b : Bool) : (s.setIv m b).ioScript = s.ioScript := by cases m <;> rfl
@[simp] theorem State.setIv_irqScript (s : State) (m : Mode) (b : Bool) : (s.setIv m b).irqScript = s.irqScript := by cases m <;> rfl
@[simp] theorem State.setIv_steps (s : State) (m : Mode) (b : Bool) : (s.setIv m b).steps = s.steps := by cases m <;> rfl

/-! ### `mapHolders` -/

@[simp] theorem State.mapHolders_config (s : State) (b : LineNo) (f : Dlar → Dlar) : (s.mapHolders b f).config = s.config := rfl
@[simp] theorem State.mapHolders_mode (s : State) (b : LineNo) (f : Dlar → Dlar) : (s.mapHolders b f).mode = s.mode := rfl
@[simp] theorem State.mapHolders_ilars (s : State) (b : LineNo) (f : Dlar → Dlar) : (s.mapHolders b f).ilars = s.ilars := rfl
@[simp] theorem State.mapHolders_ivUser (s : State) (b : LineNo) (f : Dlar → Dlar) : (s.mapHolders b f).ivUser = s.ivUser := rfl
@[simp] theorem State.mapHolders_ivSupervisor (s : State) (b : LineNo) (f : Dlar → Dlar) : (s.mapHolders b f).ivSupervisor = s.ivSupervisor := rfl
@[simp] theorem State.mapHolders_ie (s : State) (b : LineNo) (f : Dlar → Dlar) : (s.mapHolders b f).ie = s.ie := rfl
@[simp] theorem State.mapHolders_xct (s : State) (b : LineNo) (f : Dlar → Dlar) : (s.mapHolders b f).xct = s.xct := rfl
@[simp] theorem State.mapHolders_swiarg0 (s : State) (b : LineNo) (f : Dlar → Dlar) : (s.mapHolders b f).swiarg0 = s.swiarg0 := rfl
@[simp] theorem State.mapHolders_swiarg1 (s : State) (b : LineNo) (f : Dlar → Dlar) : (s.mapHolders b f).swiarg1 = s.swiarg1 := rfl
@[simp] theorem State.mapHolders_swiarg2 (s : State) (b : LineNo) (f : Dlar → Dlar) : (s.mapHolders b f).swiarg2 = s.swiarg2 := rfl
@[simp] theorem State.mapHolders_swiarg3 (s : State) (b : LineNo) (f : Dlar → Dlar) : (s.mapHolders b f).swiarg3 = s.swiarg3 := rfl
@[simp] theorem State.mapHolders_mem (s : State) (b : LineNo) (f : Dlar → Dlar) : (s.mapHolders b f).mem = s.mem := rfl
@[simp] theorem State.mapHolders_ioLog (s : State) (b : LineNo) (f : Dlar → Dlar) : (s.mapHolders b f).ioLog = s.ioLog := rfl
@[simp] theorem State.mapHolders_ioScript (s : State) (b : LineNo) (f : Dlar → Dlar) : (s.mapHolders b f).ioScript = s.ioScript := rfl
@[simp] theorem State.mapHolders_irqScript (s : State) (b : LineNo) (f : Dlar → Dlar) : (s.mapHolders b f).irqScript = s.irqScript := rfl
@[simp] theorem State.mapHolders_steps (s : State) (b : LineNo) (f : Dlar → Dlar) : (s.mapHolders b f).steps = s.steps := rfl

/-! ### `returnToUser` -/

@[simp] theorem State.returnToUser_config (s : State) : s.returnToUser.config = s.config := rfl
@[simp] theorem State.returnToUser_ilars (s : State) : s.returnToUser.ilars = s.ilars := rfl
@[simp] theorem State.returnToUser_dlars (s : State) : s.returnToUser.dlars = s.dlars := rfl
@[simp] theorem State.returnToUser_ivUser (s : State) : s.returnToUser.ivUser = s.ivUser := rfl
@[simp] theorem State.returnToUser_ivSupervisor (s : State) : s.returnToUser.ivSupervisor = s.ivSupervisor := rfl
@[simp] theorem State.returnToUser_ie (s : State) : s.returnToUser.ie = s.ie := rfl
@[simp] theorem State.returnToUser_xct (s : State) : s.returnToUser.xct = s.xct := rfl
@[simp] theorem State.returnToUser_swiarg0 (s : State) : s.returnToUser.swiarg0 = s.swiarg0 := rfl
@[simp] theorem State.returnToUser_swiarg1 (s : State) : s.returnToUser.swiarg1 = s.swiarg1 := rfl
@[simp] theorem State.returnToUser_swiarg2 (s : State) : s.returnToUser.swiarg2 = s.swiarg2 := rfl
@[simp] theorem State.returnToUser_swiarg3 (s : State) : s.returnToUser.swiarg3 = s.swiarg3 := rfl
@[simp] theorem State.returnToUser_mem (s : State) : s.returnToUser.mem = s.mem := rfl
@[simp] theorem State.returnToUser_ioLog (s : State) : s.returnToUser.ioLog = s.ioLog := rfl
@[simp] theorem State.returnToUser_ioScript (s : State) : s.returnToUser.ioScript = s.ioScript := rfl
@[simp] theorem State.returnToUser_irqScript (s : State) : s.returnToUser.irqScript = s.irqScript := rfl
@[simp] theorem State.returnToUser_steps (s : State) : s.returnToUser.steps = s.steps := rfl

/-! ### `ioRead` -/

@[simp] theorem State.ioRead_config (s : State) (a : Addr) (n : Nat) : (s.ioRead a n).config = s.config := rfl
@[simp] theorem State.ioRead_mode (s : State) (a : Addr) (n : Nat) : (s.ioRead a n).mode = s.mode := rfl
@[simp] theorem State.ioRead_ilars (s : State) (a : Addr) (n : Nat) : (s.ioRead a n).ilars = s.ilars := rfl
@[simp] theorem State.ioRead_dlars (s : State) (a : Addr) (n : Nat) : (s.ioRead a n).dlars = s.dlars := rfl
@[simp] theorem State.ioRead_ivUser (s : State) (a : Addr) (n : Nat) : (s.ioRead a n).ivUser = s.ivUser := rfl
@[simp] theorem State.ioRead_ivSupervisor (s : State) (a : Addr) (n : Nat) : (s.ioRead a n).ivSupervisor = s.ivSupervisor := rfl
@[simp] theorem State.ioRead_ie (s : State) (a : Addr) (n : Nat) : (s.ioRead a n).ie = s.ie := rfl
@[simp] theorem State.ioRead_xct (s : State) (a : Addr) (n : Nat) : (s.ioRead a n).xct = s.xct := rfl
@[simp] theorem State.ioRead_swiarg0 (s : State) (a : Addr) (n : Nat) : (s.ioRead a n).swiarg0 = s.swiarg0 := rfl
@[simp] theorem State.ioRead_swiarg1 (s : State) (a : Addr) (n : Nat) : (s.ioRead a n).swiarg1 = s.swiarg1 := rfl
@[simp] theorem State.ioRead_swiarg2 (s : State) (a : Addr) (n : Nat) : (s.ioRead a n).swiarg2 = s.swiarg2 := rfl
@[simp] theorem State.ioRead_swiarg3 (s : State) (a : Addr) (n : Nat) : (s.ioRead a n).swiarg3 = s.swiarg3 := rfl
@[simp] theorem State.ioRead_mem (s : State) (a : Addr) (n : Nat) : (s.ioRead a n).mem = s.mem := rfl
@[simp] theorem State.ioRead_irqScript (s : State) (a : Addr) (n : Nat) : (s.ioRead a n).irqScript = s.irqScript := rfl
@[simp] theorem State.ioRead_steps (s : State) (a : Addr) (n : Nat) : (s.ioRead a n).steps = s.steps := rfl

/-! ### `ioWrite` -/

@[simp] theorem State.ioWrite_config (s : State) (a : Addr) (bs : List Byte) : (s.ioWrite a bs).config = s.config := rfl
@[simp] theorem State.ioWrite_mode (s : State) (a : Addr) (bs : List Byte) : (s.ioWrite a bs).mode = s.mode := rfl
@[simp] theorem State.ioWrite_ilars (s : State) (a : Addr) (bs : List Byte) : (s.ioWrite a bs).ilars = s.ilars := rfl
@[simp] theorem State.ioWrite_dlars (s : State) (a : Addr) (bs : List Byte) : (s.ioWrite a bs).dlars = s.dlars := rfl
@[simp] theorem State.ioWrite_ivUser (s : State) (a : Addr) (bs : List Byte) : (s.ioWrite a bs).ivUser = s.ivUser := rfl
@[simp] theorem State.ioWrite_ivSupervisor (s : State) (a : Addr) (bs : List Byte) : (s.ioWrite a bs).ivSupervisor = s.ivSupervisor := rfl
@[simp] theorem State.ioWrite_ie (s : State) (a : Addr) (bs : List Byte) : (s.ioWrite a bs).ie = s.ie := rfl
@[simp] theorem State.ioWrite_xct (s : State) (a : Addr) (bs : List Byte) : (s.ioWrite a bs).xct = s.xct := rfl
@[simp] theorem State.ioWrite_swiarg0 (s : State) (a : Addr) (bs : List Byte) : (s.ioWrite a bs).swiarg0 = s.swiarg0 := rfl
@[simp] theorem State.ioWrite_swiarg1 (s : State) (a : Addr) (bs : List Byte) : (s.ioWrite a bs).swiarg1 = s.swiarg1 := rfl
@[simp] theorem State.ioWrite_swiarg2 (s : State) (a : Addr) (bs : List Byte) : (s.ioWrite a bs).swiarg2 = s.swiarg2 := rfl
@[simp] theorem State.ioWrite_swiarg3 (s : State) (a : Addr) (bs : List Byte) : (s.ioWrite a bs).swiarg3 = s.swiarg3 := rfl
@[simp] theorem State.ioWrite_mem (s : State) (a : Addr) (bs : List Byte) : (s.ioWrite a bs).mem = s.mem := rfl
@[simp] theorem State.ioWrite_ioScript (s : State) (a : Addr) (bs : List Byte) : (s.ioWrite a bs).ioScript = s.ioScript := rfl
@[simp] theorem State.ioWrite_irqScript (s : State) (a : Addr) (bs : List Byte) : (s.ioWrite a bs).irqScript = s.irqScript := rfl
@[simp] theorem State.ioWrite_steps (s : State) (a : Addr) (bs : List Byte) : (s.ioWrite a bs).steps = s.steps := rfl

/-! ### Registers -/

theorem isZeroReg_iff (k : PhysReg) : isZeroReg k = true ↔ k = 0 ∨ k = 64 := by
  have h0 : k = 0 ↔ k.val = 0 := Fin.ext_iff
  have h64 : k = 64 ↔ k.val = 64 := Fin.ext_iff
  rw [h0, h64]
  simp [isZeroReg]

theorem dlar_zero (s : State) {k : PhysReg} (h : isZeroReg k = true) : s.dlar k = zeroDlar := by simp [State.dlar, h]

theorem dlar_nonzero (s : State) {k : PhysReg} (h : isZeroReg k = false) : s.dlar k = s.dlars[k] := by simp [State.dlar, h]

theorem ilar_zero (s : State) {k : PhysReg} (h : isZeroReg k = true) : s.ilar k = zeroIlar := by simp [State.ilar, h]

theorem ilar_nonzero (s : State) {k : PhysReg} (h : isZeroReg k = false) : s.ilar k = s.ilars[k] := by simp [State.ilar, h]

/-- Two states with the same register file show the same DLARs. -/
theorem dlar_congr {s t : State} (h : t.dlars = s.dlars) (k : PhysReg) : t.dlar k = s.dlar k := by simp [State.dlar, h]

/-- Two states with the same register file show the same ILARs. -/
theorem ilar_congr {s t : State} (h : t.ilars = s.ilars) (k : PhysReg) : t.ilar k = s.ilar k := by simp [State.ilar, h]

/-- Two states with the same `iv` bits. -/
theorem iv_congr {s t : State} (hu : t.ivUser = s.ivUser) (hs : t.ivSupervisor = s.ivSupervisor) (m : Mode) :
    t.iv m = s.iv m := by cases m <;> simp [State.iv, hu, hs]

theorem dlar_setDlar (s : State) (k : PhysReg) (D : Dlar) (j : PhysReg) :
    (s.setDlar k D).dlar j = if j = k ∧ isZeroReg k = false then D else s.dlar j := by
  unfold State.setDlar
  by_cases hk : isZeroReg k = true
  · simp [hk]
  · by_cases hj : j = k
    · subst hj; simp [hk, State.dlar]
    · have : k.val ≠ j.val := fun h => hj (Fin.ext h.symm)
      simp [hk, hj, State.dlar, this]

theorem ilar_setIlar (s : State) (k : PhysReg) (I : Ilar) (j : PhysReg) :
    (s.setIlar k I).ilar j = if j = k ∧ isZeroReg k = false then I else s.ilar j := by
  unfold State.setIlar
  by_cases hk : isZeroReg k = true
  · simp [hk]
  · by_cases hj : j = k
    · subst hj; simp [hk, State.ilar]
    · have : k.val ≠ j.val := fun h => hj (Fin.ext h.symm)
      simp [hk, hj, State.ilar, this]

@[simp] theorem dlar_setIlar (s : State) (k : PhysReg) (I : Ilar) (j : PhysReg) : (s.setIlar k I).dlar j = s.dlar j :=
  dlar_congr (by simp) j

@[simp] theorem ilar_setDlar (s : State) (k : PhysReg) (D : Dlar) (j : PhysReg) : (s.setDlar k D).ilar j = s.ilar j :=
  ilar_congr (by simp) j

@[simp] theorem dlar_setIv (s : State) (m : Mode) (b : Bool) (j : PhysReg) : (s.setIv m b).dlar j = s.dlar j :=
  dlar_congr (by simp) j

@[simp] theorem ilar_setIv (s : State) (m : Mode) (b : Bool) (j : PhysReg) : (s.setIv m b).ilar j = s.ilar j :=
  ilar_congr (by simp) j

@[simp] theorem ilar_mapHolders (s : State) (b : LineNo) (f : Dlar → Dlar) (j : PhysReg) :
    (s.mapHolders b f).ilar j = s.ilar j := ilar_congr (by simp) j

@[simp] theorem iv_setDlar (s : State) (k : PhysReg) (D : Dlar) (m : Mode) : (s.setDlar k D).iv m = s.iv m :=
  iv_congr (by simp) (by simp) m

@[simp] theorem iv_setIlar (s : State) (k : PhysReg) (I : Ilar) (m : Mode) : (s.setIlar k I).iv m = s.iv m :=
  iv_congr (by simp) (by simp) m

@[simp] theorem iv_mapHolders (s : State) (b : LineNo) (f : Dlar → Dlar) (m : Mode) : (s.mapHolders b f).iv m = s.iv m :=
  iv_congr (by simp) (by simp) m

theorem iv_setIv (s : State) (m : Mode) (b : Bool) (m' : Mode) : (s.setIv m b).iv m' = if m' = m then b else s.iv m' := by
  cases m <;> cases m' <;> simp [State.setIv, State.iv]

theorem holds_eq (s : State) (b : LineNo) (k : PhysReg) :
    s.holds b k = true ↔ isZeroReg k = false ∧ lineOf (s.dlar k).addr = b := by
  unfold State.holds
  by_cases hk : isZeroReg k = true
  · simp [hk]
  · simp [hk, State.dlar]

theorem dlar_mapHolders (s : State) (b : LineNo) (f : Dlar → Dlar) (j : PhysReg) :
    (s.mapHolders b f).dlar j = if s.holds b j = true then f (s.dlar j) else s.dlar j := by
  by_cases hz : isZeroReg j = true
  · have : s.holds b j = false := by simp [State.holds, hz]
    simp [this, dlar_zero _ hz]
  · have hz : isZeroReg j = false := by simpa using hz
    rw [dlar_nonzero _ hz, dlar_nonzero _ hz, State.mapHolders, tabulate_get_fin]

@[simp] theorem ipcOf_nonzero (m : Mode) : isZeroReg (ipcOf m) = false := by cases m <;> rfl

theorem bankReg_zero_iff (m : Mode) (n : Fin 64) : isZeroReg (bankReg m n) = true ↔ n = 0 := by
  have h0 : n = 0 ↔ n.val = 0 := Fin.ext_iff
  rw [h0]
  cases m <;> simp [bankReg, isZeroReg] <;> omega

theorem bankReg_injective (m : Mode) {n n' : Fin 64} (h : bankReg m n = bankReg m n') : n = n' := by
  have h' := congrArg Fin.val h
  apply Fin.ext
  cases m <;> simp [bankReg] at h' <;> omega

end Sys2Proof.Machine
end

