-- ==== Sys2Proof/Laws/Ops.lean ====
section
/-! SUPPORT. One lemma per shared operation, saying once everything it does, in the terms of Safety.lean. -/

namespace Sys2Proof.Machine

/-! ### What stays the same -/

theorem SameRest.refl (s : State) : SameRest s s := ⟨rfl, rfl, rfl, rfl, rfl, rfl, rfl, rfl, rfl, rfl, rfl, rfl⟩
theorem SameIlars.refl (s : State) : SameIlars s s := ⟨fun _ => rfl, fun _ => rfl⟩
theorem SameMem.refl (s : State) : SameMem s s := fun _ => rfl
theorem SameDlars.refl (s : State) : SameDlars s s := fun _ => rfl

theorem SameRest.trans {s t u : State} (h : SameRest s t) (g : SameRest t u) : SameRest s u :=
  ⟨g.1.trans h.1, g.2.trans h.2, g.3.trans h.3, g.4.trans h.4, g.5.trans h.5, g.6.trans h.6, g.7.trans h.7, g.8.trans h.8,
    g.9.trans h.9, g.10.trans h.10, g.11.trans h.11, g.12.trans h.12⟩

theorem sameRest_setDlar (s : State) (k : PhysReg) (D : Dlar) : SameRest s (s.setDlar k D) := by constructor <;> simp
theorem sameRest_setIlar (s : State) (k : PhysReg) (I : Ilar) : SameRest s (s.setIlar k I) := by constructor <;> simp
theorem sameRest_setIv (s : State) (m : Mode) (b : Bool) : SameRest s (s.setIv m b) := by constructor <;> simp
theorem sameRest_mapHolders (s : State) (b : LineNo) (f : Dlar → Dlar) : SameRest s (s.mapHolders b f) := by
  constructor <;> simp
theorem sameRest_mem (s : State) (m : Memory) : SameRest s { s with mem := m } := by constructor <;> rfl

theorem sameIlars_of {s t : State} (hi : t.ilars = s.ilars) (hu : t.ivUser = s.ivUser)
    (hs : t.ivSupervisor = s.ivSupervisor) : SameIlars s t :=
  ⟨fun k => ilar_congr hi k, fun m => iv_congr hu hs m⟩

theorem sameMem_of {s t : State} (h : t.mem = s.mem) : SameMem s t := fun a => by rw [h]

/-! ### Sequencing -/

theorem pc_eq (s : State) : s.pc = (s.ilar (ipcOf s.mode)).addr := rfl

theorem advance_fallsThrough (s : State) : FallsThrough s s.advance := by
  have hr : SameRest s s.advance := by
    unfold State.advance
    dsimp only
    split
    · exact sameRest_setIlar _ _ _
    · exact (sameRest_setIlar _ _ _).trans (sameRest_setIv _ _ _)
  refine ⟨hr, fun k => ?_, fun a => ?_, ?_, fun k hk => ?_, ?_, fun m hm => ?_⟩ <;> unfold State.advance <;> dsimp only
  · split <;> simp
  · split <;> simp
  · split <;> simp [ilar_setIlar, State.pc]
  · split <;> simp [ilar_setIlar, hk]
  · split
    · next h => rw [iv_setIlar, beq_iff_eq.2 h, Bool.and_true]
    · next h => rw [iv_setIv, if_pos rfl, beq_eq_false_iff_ne.2 h, Bool.and_false]
  · split
    · simp
    · simp [iv_setIv, hm]

theorem jump_jumps (s : State) (b : IReg) (index : Nat) : Jumps s (s.jump b index) b index := by
  have hr : SameRest s (s.jump b index) := by
    unfold State.jump
    exact (sameRest_setIlar _ _ _).trans (sameRest_setIv _ _ _)
  have hm := hr.mode
  have hi : (s.jump b index).ilar (ipcOf s.mode) =
      { s.ipc with addr := lineAddr (lineOf (s.i b).addr) (4 * index), data := (s.i b).data } := by
    simp [State.jump, ilar_setIlar]
  refine ⟨hr, fun k => ?_, fun a => ?_, ?_, ?_, ?_, fun k hk => ?_, ?_, fun m hm' => ?_⟩
  · simp [State.jump]
  · simp [State.jump]
  · rw [pc_eq, hm, hi]
    simp [lineAddr, lineOf_toNat]
  · rw [State.ipc, hm, hi]
  · rw [State.ipc, hm, hi]
  · simp [State.jump, ilar_setIlar, hk]
  · simp [State.jump, iv_setIv]
  · simp [State.jump, iv_setIv, hm']

/-! ### DLARs -/

theorem setType_typeSet (s : State) (a : DReg) (T : Ty) : TypeSet s (s.setType a T) a T := by
  have hz : isZeroReg (s.reg a) = true ↔ a = 0 := bankReg_zero_iff _ _
  refine ⟨sameRest_setDlar _ _ _, sameIlars_of (by simp [State.setType]) (by simp [State.setType]) (by simp [State.setType]),
    sameMem_of (by simp [State.setType]), fun ha => ?_, fun k hk => ?_⟩
  · rw [State.setType, dlar_setDlar, if_pos ⟨rfl, by simpa using fun h => ha (hz.1 h)⟩]
  · rw [State.setType, dlar_setDlar, if_neg]
    rintro ⟨h1, h2⟩
    rcases hk with h | h
    · exact h h1
    · rw [hz.2 h] at h2; exact absurd h2 (by decide)

theorem holdsLine_iff (s : State) (b : LineNo) (k : PhysReg) : s.HoldsLine b k ↔ s.holds b k = true := (holds_eq s b k).symm

/-- What `writeHeld` does to one DLAR. -/
theorem writeHeld_dlar (s : State) (b : LineNo) (p : Nat) (bs : List Byte) (j : PhysReg) :
    (s.HoldsLine b j → DataChanged (s.dlar j) ((s.writeHeld b p bs).dlar j) p bs) ∧
    (¬ s.HoldsLine b j → (s.writeHeld b p bs).dlar j = s.dlar j) := by
  rw [holdsLine_iff, State.writeHeld, dlar_mapHolders]
  refine ⟨fun h => ?_, fun h => by simp [h]⟩
  rw [if_pos h]
  exact ⟨rfl, rfl, rfl, rfl, rfl, fun j hj => byteAt_patch _ _ _ hj⟩

theorem writeBytes_lineWritten (s : State) (k : PhysReg) (p : Nat) (bs : List Byte) :
    LineWritten s (s.writeBytes k p bs) k p bs := by
  unfold State.writeBytes
  by_cases hk : isZeroReg k = true
  · rw [if_pos hk]
    exact ⟨.refl s, .refl s, .refl s, fun h => by simp [hk] at h, fun _ _ => rfl⟩
  · rw [if_neg hk]
    have hk' : isZeroReg k = false := by simpa using hk
    refine ⟨sameRest_mapHolders _ _ _, sameIlars_of rfl rfl rfl, sameMem_of rfl, fun _ j hj => ?_, fun j hj => ?_⟩
    · exact (writeHeld_dlar s _ p bs j).1 hj
    · rcases hj with h | h
      · exact absurd h hk
      · exact (writeHeld_dlar s _ p bs j).2 h

/-! ### Finding a holder -/

theorem find_none {p : PhysReg → Bool} (h : (List.finRange 128).find? p = none) (k : PhysReg) : p k = false := by
  have := List.find?_eq_none.1 h k (List.mem_finRange k)
  simpa using this

theorem find_some {p : PhysReg → Bool} {k : PhysReg} (h : (List.finRange 128).find? p = some k) :
    p k = true ∧ ∀ j, j < k → p j = false := by
  obtain ⟨hp, i, hi, hk, hlt⟩ := List.find?_eq_some_iff_getElem.1 h
  refine ⟨hp, fun j hj => ?_⟩
  have hkv : k.val = i := by
    have := congrArg Fin.val hk
    simpa [List.getElem_finRange] using this.symm
  have hji : j.val < i := by rw [← hkv]; exact hj
  have := hlt j.val hji
  simpa [List.getElem_finRange] using this

theorem otherHolder_some {s : State} {k : PhysReg} {b : LineNo} {x : PhysReg} (h : s.otherHolder k b = some x) :
    s.FirstOther b k x := by
  obtain ⟨h1, h2⟩ := find_some h
  simp only [Bool.and_eq_true, bne_iff_ne, ne_eq] at h1
  refine ⟨(holdsLine_iff _ _ _).2 h1.1, h1.2, fun j hj hb => ?_⟩
  have := h2 j hj
  rw [(holdsLine_iff _ _ _).1 hb] at this
  simpa using this

theorem otherHolder_none {s : State} {k : PhysReg} {b : LineNo} (h : s.otherHolder k b = none) (x : PhysReg)
    (hx : s.HoldsLine b x) : x = k := by
  have := find_none h x
  rw [(holdsLine_iff _ _ _).1 hx] at this
  simpa using this

theorem holder_isSome (s : State) (b : LineNo) : (s.holder b).isSome = true ↔ ∃ k, s.HoldsLine b k := by
  constructor
  · intro h
    obtain ⟨k, hk⟩ := Option.isSome_iff_exists.1 h
    exact ⟨k, (holdsLine_iff _ _ _).2 (find_some hk).1⟩
  · rintro ⟨k, hk⟩
    by_contra h
    have hn : s.holder b = none := by simpa using h
    have := find_none hn k
    rw [(holdsLine_iff _ _ _).1 hk] at this
    exact absurd this (by decide)

/-! ### Loading -/

/-- The state after `DRelease`: only memory can differ (R68). -/
theorem release_spec (s : State) (hw : s.mem.wf = true) (k : PhysReg) (hk : isZeroReg k = false) :
    SameRest s (s.release k) ∧ (s.release k).dlars = s.dlars ∧ (s.release k).ilars = s.ilars ∧
    (s.release k).ivUser = s.ivUser ∧ (s.release k).ivSupervisor = s.ivSupervisor ∧ Released s (s.release k) k := by
  have hself : s.HoldsLine (lineOf (s.dlar k).addr) k := ⟨hk, rfl⟩
  unfold State.release
  split
  · next h =>
    simp only [Bool.and_eq_true, Option.isNone_iff_eq_none] at h
    refine ⟨sameRest_mem _ _, rfl, rfl, rfl, rfl, fun _ a => read_writeLine hw _ _ a, fun hn => ?_⟩
    exact absurd ⟨h.1, fun j hj => otherHolder_none h.2 j hj⟩ hn
  · next h =>
    refine ⟨.refl s, rfl, rfl, rfl, rfl, fun hd => ?_, fun _ => .refl s⟩
    exfalso
    apply h
    simp only [Bool.and_eq_true, Option.isNone_iff_eq_none]
    refine ⟨hd.1, ?_⟩
    cases ho : s.otherHolder k (lineOf (s.dlar k).addr) with
    | none => rfl
    | some x =>
      have := otherHolder_some ho
      exact absurd (hd.2 x this.1) this.2.1

theorem dload_loaded (s : State) (hw : s.mem.wf = true) (k : PhysReg) (ea : Addr) (T : Ty) :
    Loaded s (s.dload k ea T) k ea T := by
  unfold State.dload
  by_cases hk : isZeroReg k = true
  · rw [if_pos hk]
    have no : ¬ isZeroReg k = false := by simp [hk]
    exact ⟨.refl s, .refl s, fun _ _ => rfl, fun _ => .refl s, fun h => absurd h no, fun h => absurd h no, rfl, rfl,
      fun h => absurd h no, fun h => absurd h no⟩
  · rw [if_neg hk]
    have hk' : isZeroReg k = false := by simpa using hk
    by_cases hl : lineOf (s.dlar k).addr = lineOf ea
    · rw [if_pos hl]
      have hd : (s.setDlar k { s.dlar k with addr := ea, type := T }).dlar k = { s.dlar k with addr := ea, type := T } := by
        rw [dlar_setDlar, if_pos ⟨rfl, hk'⟩]
      refine ⟨sameRest_setDlar _ _ _, sameIlars_of (by simp) (by simp) (by simp), fun j hj => ?_, fun h => absurd h hk,
        fun _ => by rw [hd], fun _ => by rw [hd], by rw [hd], by rw [hd], fun _ _ => ⟨by rw [hd], by rw [hd],
        sameMem_of (by simp)⟩, fun _ h => absurd hl h⟩
      rw [dlar_setDlar, if_neg]
      rintro ⟨h1, h2⟩
      rcases hj with h | h
      · exact h h1
      · exact hk h
    · rw [if_neg hl]
      obtain ⟨hr, hdl, hil, hu, hs, hrel⟩ := release_spec s hw k hk'
      dsimp only
      have hsame : ∀ j, (s.release k).dlar j = s.dlar j := dlar_congr hdl
      have hho : ∀ b, (s.release k).otherHolder k b = s.otherHolder k b := fun b => by
        simp [State.otherHolder, State.holds, hdl]
      have hd : ∀ D, ((s.release k).setDlar k D).dlar k = D := fun D => by rw [dlar_setDlar, if_pos ⟨rfl, hk'⟩]
      refine ⟨hr.trans (sameRest_setDlar _ _ _), sameIlars_of (by simp [hil]) (by simp [hu]) (by simp [hs]), fun j hj => ?_,
        fun h => absurd h hk, fun _ => by rw [hd], fun _ => by rw [hd], by rw [hd], by rw [hd], fun _ h => absurd h hl,
        fun _ _ => ⟨?_, ?_⟩⟩
      · rw [dlar_setDlar, if_neg, hsame]
        rintro ⟨h1, h2⟩
        rcases hj with h | h
        · exact h h1
        · exact hk h
      · simpa [Released, SameMem] using hrel
      · unfold LineObtained
        rw [hd]
        unfold State.obtain
        rw [hho]
        cases ho : s.otherHolder k (lineOf ea) with
        | some x =>
          exact Or.inl ⟨x, otherHolder_some ho, by simp [hsame], by simp [hsame]⟩
        | none =>
          refine Or.inr ⟨fun x hx => otherHolder_none ho x hx, rfl, fun j hj => ?_⟩
          simp [byteAt_line _ _ hj]

/-- A DLAR whose 128 bytes are all written. -/
theorem DataChanged.whole {D E : Dlar} {l : Line} (h : DataChanged D E 0 l.toList) :
    E = { D with data := l, dirty := true } := by
  have hd : E.data = l := line_ext fun j hj => by
    rw [h.data j hj, if_pos (by simp [hj]), byteAt_lt _ hj]
    simp [hj]
  obtain ⟨h1, h2, h3, h4, h5, -⟩ := h
  cases E
  simp_all

theorem retag_retagged (s : State) (hw : s.mem.wf = true) (k : PhysReg) (ea : Addr) (T : Ty) :
    Retagged s (s.retag k ea T) k ea T := by
  have hl := dload_loaded s hw k ea T
  have hb := writeBytes_lineWritten (s.dload k ea T) k 0 (s.dlar k).data.toList
  unfold State.retag
  generalize s.dload k ea T = u at *
  generalize u.writeBytes k 0 (s.dlar k).data.toList = t at *
  have hmem : ∀ {v : State}, SameMem v u → SameMem v t := fun h a => (hb.mem a).trans (h a)
  have hhold : ∀ j, j ≠ k → ∀ b, u.HoldsLine b j ↔ s.HoldsLine b j := fun j hj b => by
    rw [State.HoldsLine, State.HoldsLine, hl.others j (.inl hj)]
  refine ⟨hl.rest.trans hb.rest, ⟨fun j => (hb.ilars.1 j).trans (hl.ilars.1 j), fun m => (hb.ilars.2 m).trans (hl.ilars.2 m)⟩,
    fun h => ⟨fun j => (hb.others j (.inl h)).trans (hl.others j (.inr h)), hmem (hl.zero h)⟩, fun h => ?_,
    fun h j hj hh => ?_, fun j hj hh => ?_, fun h hs => hmem (hl.same h hs).2.2, fun h hs => ?_⟩
  · rw [(hb.holders h k ⟨h, rfl⟩).whole, hl.addr h, hl.type h, hl.tag, hl.refCount]
  · rw [(hb.holders h j ((hhold j hj _).2 (by rw [hl.addr h]; exact hh))).whole, hl.others j (.inl hj)]
  · rw [← hl.others j (.inl hj)]
    by_cases h : isZeroReg k = true
    · exact hb.others j (.inl h)
    · refine hb.others j (.inr fun hc => hh ?_)
      rw [hl.addr (by simpa using h)] at hc
      exact (hhold j hj _).1 hc
  · obtain ⟨h1, h2⟩ := (hl.new h hs).1
    exact ⟨fun hd a => (hb.mem a).trans (h1 hd a), fun hd => hmem (h2 hd)⟩

/-! ### Storing, flushing, reloading -/

theorem dataWrite_stored (s : State) (hw : s.mem.wf = true) (ea : Addr) (v : TVal) :
    Stored s (s.dataWrite ea v) ea (v.bytes s.config.byteOrder) := by
  have hlen : (v.bytes s.config.byteOrder).length < 2 ^ 32 := by
    rw [TVal.bytes, natToBytes_length]; cases v.ty <;> simp [Ty.size]
  unfold State.dataWrite
  by_cases hh : (s.holder (lineOf ea)).isSome = true
  · rw [if_pos hh]
    have hex := (holder_isSome s (lineOf ea)).1 hh
    refine ⟨sameRest_mapHolders _ _ _, sameIlars_of rfl rfl rfl, fun j hj => ⟨sameMem_of rfl, (writeHeld_dlar s _ _ _ j).1 hj⟩,
      fun j hj => (writeHeld_dlar s _ _ _ j).2 hj, fun hn => ?_⟩
    obtain ⟨k, hk⟩ := hex
    exact absurd hk (hn k)
  · rw [if_neg hh]
    have hno : ∀ j, ¬ s.HoldsLine (lineOf ea) j := fun j hj => hh ((holder_isSome s (lineOf ea)).2 ⟨j, hj⟩)
    exact ⟨sameRest_mem _ _, sameIlars_of rfl rfl rfl, fun j hj => absurd hj (hno j), fun _ _ => rfl,
      fun _ a => read_writeBytes hw _ _ hlen a⟩

theorem dflush_flushed (s : State) (hw : s.mem.wf = true) (k : PhysReg) : Flushed s (s.dflush k) k := by
  unfold State.dflush
  by_cases hk : isZeroReg k = true
  · rw [if_pos hk]
    exact ⟨.refl s, .refl s, fun a => by simp [hk], fun j => by simp [hk]⟩
  · rw [if_neg hk]
    have hk' : isZeroReg k = false := by simpa using hk
    refine ⟨(sameRest_mem _ _).trans (sameRest_mapHolders _ _ _), sameIlars_of rfl rfl rfl, fun a => ?_, fun j => ?_⟩
    · simp [hk', read_writeLine hw]
    · rw [dlar_mapHolders]
      have hd : ∀ x, ({ s with mem := s.mem.writeLine (lineOf (s.dlar k).addr) (s.dlar k).data } : State).dlar x = s.dlar x :=
        fun x => dlar_congr rfl x
      simp only [holds_eq, hd, hk', true_and]

theorem dreload_reloaded (s : State) (k : PhysReg) : Reloaded s (s.dreload k) k := by
  unfold State.dreload
  by_cases hk : isZeroReg k = true
  · rw [if_pos hk]
    exact ⟨.refl s, .refl s, .refl s, fun h => by simp [hk] at h, fun _ _ => rfl⟩
  · rw [if_neg hk]
    refine ⟨sameRest_mapHolders _ _ _, sameIlars_of rfl rfl rfl, sameMem_of rfl, fun _ j hj => ?_, fun j hj => ?_⟩
    · rw [dlar_mapHolders, if_pos ((holdsLine_iff _ _ _).1 hj)]
      exact ⟨rfl, fun i hi => byteAt_line _ _ hi⟩
    · rcases hj with h | h
      · exact absurd h hk
      · rw [dlar_mapHolders, if_neg (fun hh => h ((holdsLine_iff _ _ _).2 hh))]

/-! ### ILARs -/

theorem lineValid_iff (s : State) (k : PhysReg) : s.lineValid k = true ↔ ∀ m, k = ipcOf m → s.iv m = true := by
  have h63 : ∀ b : Bool, ((k != ipcOf .user || b) = true ↔ (k = ipcOf .user → b = true)) := fun b => by
    by_cases h : k = ipcOf .user <;> simp [h]
  have h127 : ∀ b : Bool, ((k != ipcOf .supervisor || b) = true ↔ (k = ipcOf .supervisor → b = true)) := fun b => by
    by_cases h : k = ipcOf .supervisor <;> simp [h]
  rw [State.lineValid, Bool.and_eq_true, h63, h127]
  constructor
  · rintro ⟨h1, h2⟩ m hm
    cases m
    · exact h1 hm
    · exact h2 hm
  · intro h
    exact ⟨h .user, h .supervisor⟩

theorem ilookup_pred (s : State) (b : LineNo) (x k : PhysReg) :
    (!isZeroReg k && k != x && s.lineValid k && lineOf (s.ilars[k]).addr == b) = true ↔ s.HasInstrLine b x k := by
  unfold State.HasInstrLine
  simp only [Bool.and_eq_true, Bool.not_eq_true', bne_iff_ne, ne_eq, beq_iff_eq, lineValid_iff]
  constructor
  · rintro ⟨⟨⟨h1, h2⟩, h3⟩, h4⟩
    exact ⟨h1, h2, h3, by rw [ilar_nonzero _ h1]; exact h4⟩
  · rintro ⟨h1, h2, h3, h4⟩
    exact ⟨⟨⟨h1, h2⟩, h3⟩, by rw [ilar_nonzero _ h1] at h4; exact h4⟩

theorem ilookup_some {s : State} {b : LineNo} {x : PhysReg} {l : Line} (h : s.ilookup b x = some l) :
    ∃ k, s.HasInstrLine b x k ∧ (∀ j, j < k → ¬ s.HasInstrLine b x j) ∧ l = (s.ilar k).data := by
  obtain ⟨k, hk, rfl⟩ := Option.map_eq_some_iff.1 h
  obtain ⟨h1, h2⟩ := find_some hk
  have h1' := (ilookup_pred s b x k).1 h1
  refine ⟨k, h1', fun j hj hh => ?_, by rw [ilar_nonzero _ h1'.1]⟩
  have := h2 j hj
  rw [(ilookup_pred s b x j).2 hh] at this
  exact absurd this (by decide)

theorem ilookup_none {s : State} {b : LineNo} {x : PhysReg} (h : s.ilookup b x = none) (k : PhysReg) :
    ¬ s.HasInstrLine b x k := by
  intro hh
  have := find_none (Option.map_eq_none_iff.1 h) k
  rw [(ilookup_pred s b x k).2 hh] at this
  exact absurd this (by decide)

theorem instrLine_is (s : State) (b : LineNo) (x : PhysReg) : s.InstrLineIs b x (s.instrLine b x) := by
  unfold State.instrLine
  cases h : s.ilookup b x with
  | some l => exact Or.inl (by simpa using ilookup_some h)
  | none => exact Or.inr ⟨ilookup_none h, fun j hj => by simpa using byteAt_line _ _ hj⟩

theorem instrAddr_toNat (a : Addr) : (instrAddr a).toNat = a.toNat / 4 * 4 := by
  have h : instrAddr a = (a >>> 2) <<< 2 := by
    apply BitVec.eq_of_getLsbD_eq
    intro i hi
    have h3 : (3 : BitVec 32).getLsbD i = decide (i < 2) := by
      have : ∀ j : Fin 32, (3 : BitVec 32).getLsbD j.val = decide (j.val < 2) := by decide
      exact this ⟨i, hi⟩
    simp only [instrAddr, BitVec.getLsbD_and, BitVec.getLsbD_not, BitVec.getLsbD_shiftLeft, BitVec.getLsbD_ushiftRight, h3]
    by_cases h2 : i < 2
    · simp [h2]
    · simp [h2, hi, show 2 + (i - 2) = i by omega]
  rw [h]
  have := a.isLt
  simp only [BitVec.toNat_shiftLeft, BitVec.toNat_ushiftRight, Nat.shiftLeft_eq, Nat.shiftRight_eq_div_pow]
  omega

theorem lineOf_instrAddr (a : Addr) : lineOf (instrAddr a) = lineOf a := by
  apply BitVec.eq_of_toNat_eq
  rw [lineOf_toNat, lineOf_toNat, instrAddr_toNat]
  omega

theorem validate_spec (s : State) (k : PhysReg) :
    SameRest s (s.validate k) ∧ (∀ j, (s.validate k).ilar j = s.ilar j) ∧ (∀ j, (s.validate k).dlar j = s.dlar j) ∧
    (s.validate k).mem = s.mem ∧ ∀ m, (s.validate k).iv m = (s.iv m || decide (k = ipcOf m)) := by
  unfold State.validate
  by_cases h1 : k = ipcOf .user
  · rw [if_pos h1]
    have h2 : k ≠ ipcOf .supervisor := by subst h1; decide
    refine ⟨sameRest_setIv _ _ _, fun j => by simp, fun j => by simp, by simp, fun m => ?_⟩
    cases m
    · simp [iv_setIv, h1]
    · simp [iv_setIv, h2]
  · rw [if_neg h1]
    by_cases h2 : k = ipcOf .supervisor
    · rw [if_pos h2]
      refine ⟨sameRest_setIv _ _ _, fun j => by simp, fun j => by simp, by simp, fun m => ?_⟩
      cases m
      · simp [iv_setIv, h1]
      · simp [iv_setIv, h2]
    · rw [if_neg h2]
      refine ⟨.refl s, fun _ => rfl, fun _ => rfl, rfl, fun m => ?_⟩
      cases m <;> simp [h1, h2]

theorem ifill_filled (s : State) (k : PhysReg) (a : Addr) : Filled s (s.ifill k a) k a := by
  unfold State.ifill
  by_cases hk : isZeroReg k = true
  · rw [if_pos hk]
    have no : ¬ isZeroReg k = false := by simp [hk]
    refine ⟨.refl s, .refl s, .refl s, fun _ _ => rfl, fun h => absurd h no, fun h => absurd h no, rfl, fun m => ?_⟩
    have : k ≠ ipcOf m := fun h => by rw [h] at hk; simp at hk
    simp [this]
  · rw [if_neg hk]
    have hk' : isZeroReg k = false := by simpa using hk
    obtain ⟨hr, hi, hd, hm, hv⟩ := validate_spec
      (s.setIlar k { s.ilar k with addr := instrAddr a, data := s.instrLine (lineOf (instrAddr a)) k }) k
    refine ⟨(sameRest_setIlar _ _ _).trans hr, fun j => by rw [hd]; simp, sameMem_of (by rw [hm]; simp), fun j hj => ?_,
      fun _ => ?_, fun _ => ?_, ?_, fun m => by rw [hv]; simp⟩
    · rw [hi, ilar_setIlar, if_neg]
      rintro ⟨h1, -⟩
      rcases hj with h | h
      · exact h h1
      · exact hk h
    · rw [hi, ilar_setIlar, if_pos ⟨rfl, hk'⟩]
      apply BitVec.eq_of_toNat_eq
      have := a.isLt
      rw [instrAddr_toNat, BitVec.toNat_ofNat]
      omega
    · rw [hi, ilar_setIlar, if_pos ⟨rfl, hk'⟩]
      simpa [lineOf_instrAddr] using instrLine_is s (lineOf (instrAddr a)) k
    · rw [hi, ilar_setIlar, if_pos ⟨rfl, hk'⟩]

theorem ireload_reloaded (s : State) (k : PhysReg) : InstrReloaded s (s.ireload k) k := by
  unfold State.ireload
  by_cases hk : isZeroReg k = true
  · rw [if_pos hk]
    have no : ¬ isZeroReg k = false := by simp [hk]
    refine ⟨.refl s, .refl s, .refl s, fun _ _ => rfl, rfl, fun h => absurd h no, rfl, fun m => ?_⟩
    have : k ≠ ipcOf m := fun h => by rw [h] at hk; simp at hk
    simp [this]
  · rw [if_neg hk]
    have hk' : isZeroReg k = false := by simpa using hk
    obtain ⟨hr, hi, hd, hm, hv⟩ := validate_spec
      (s.setIlar k { s.ilar k with data := s.mem.line (lineOf (s.ilar k).addr) }) k
    refine ⟨(sameRest_setIlar _ _ _).trans hr, fun j => by rw [hd]; simp, sameMem_of (by rw [hm]; simp), fun j hj => ?_,
      ?_, fun _ j hj => ?_, ?_, fun m => by rw [hv]; simp⟩
    · rw [hi, ilar_setIlar, if_neg]
      rintro ⟨h1, -⟩
      rcases hj with h | h
      · exact h h1
      · exact hk h
    all_goals rw [hi, ilar_setIlar, if_pos ⟨rfl, hk'⟩]
    exact byteAt_line _ _ hj

/-! ### Exceptions -/

theorem enter_entered (s : State) (c : BitVec 32) : Entered s (s.enter c) c := by
  have hex : ∀ t : State, t.ilars = s.ilars → t.ivUser = s.ivUser → t.ivSupervisor = s.ivSupervisor → t.mem = s.mem →
      t.instrLine 0 (ipcOf .supervisor) = s.instrLine 0 (ipcOf .supervisor) := by
    intro t h1 h2 h3 h4
    simp [State.instrLine, State.ilookup, State.lineValid, h1, h2, h3, h4]
  have hi : (s.enter c).ilar 127 =
      { s.ilar 127 with addr := 0, data := s.instrLine 0 (ipcOf .supervisor) } := by
    simp only [State.enter, ilar_setIv]
    rw [show (127 : PhysReg) = ipcOf .supervisor from rfl, ilar_setIlar, if_pos ⟨rfl, by simp⟩]
    have h := hex { s with xct := c, ie := if c = 0 then false else s.ie, mode := .supervisor } rfl rfl rfl rfl
    rw [h]
    rfl
  refine ⟨?_, fun k => ?_, fun a => ?_, by rw [hi], ?_, by rw [hi], fun k hk => ?_, ?_, ?_⟩
  · unfold State.enter
    exact (SameRest.trans (by constructor <;> rfl) (sameRest_setIlar _ _ _)).trans (sameRest_setIv _ _ _)
  · simp only [State.enter, dlar_setIv, dlar_setIlar]
    exact dlar_congr rfl k
  · simp [State.enter]
  · rw [hi]; exact instrLine_is s 0 127
  · simp only [State.enter, ilar_setIv]
    rw [ilar_setIlar, if_neg (fun h => hk h.1)]
    exact ilar_congr rfl k
  · rfl
  · show ((s.enter c).iv .user) = s.ivUser
    simp only [State.enter, iv_setIv]
    rw [if_neg (by decide)]
    simp [State.iv]

theorem raise_raises (s : State) (c : BitVec 32) : Raises s (s.raise c) c := by
  unfold Raises State.raise
  cases s.mode with
  | user => exact ⟨s.advance, advance_fallsThrough s, enter_entered _ c⟩
  | supervisor => exact enter_entered s c

end Sys2Proof.Machine
end

