-- ==== Sys2Proof/Laws/PerInstr.lean ====
section
/-! SUPPORT. Said of each instruction: the word the encoder gives it has the fixed bits (`fixed`: group, opcode, literal zeros,
`v` and `S`) that its row of spec/opcode_table.json gives it. One lemma per constructor. -/

namespace Sys2Proof.Laws.TableFixed

/-- Bits `hi` down to `lo` of a row are the number `value`. -/
structure FixedBits where
  hi : Nat
  lo : Nat
  value : Nat

/-- `fixed` of the row of each instruction. -/
def fixedBits : Instr → List FixedBits
  | .addS _ _ _ => [⟨9, 0, 0⟩, ⟨31, 28, 0⟩]
  | .addV _ _ _ => [⟨9, 0, 16⟩, ⟨31, 28, 0⟩]
  | .subS _ _ _ => [⟨9, 0, 1⟩, ⟨31, 28, 0⟩]
  | .subV _ _ _ => [⟨9, 0, 17⟩, ⟨31, 28, 0⟩]
  | .sltS _ _ _ => [⟨9, 0, 2⟩, ⟨31, 28, 0⟩]
  | .sltV _ _ _ => [⟨9, 0, 18⟩, ⟨31, 28, 0⟩]
  | .mulS _ _ _ => [⟨9, 0, 3⟩, ⟨31, 28, 0⟩]
  | .mulV _ _ _ => [⟨9, 0, 19⟩, ⟨31, 28, 0⟩]
  | .andS _ _ _ => [⟨9, 0, 4⟩, ⟨31, 28, 0⟩]
  | .andV _ _ _ => [⟨9, 0, 20⟩, ⟨31, 28, 0⟩]
  | .orS _ _ _ => [⟨9, 0, 5⟩, ⟨31, 28, 0⟩]
  | .orV _ _ _ => [⟨9, 0, 21⟩, ⟨31, 28, 0⟩]
  | .xorS _ _ _ => [⟨9, 0, 6⟩, ⟨31, 28, 0⟩]
  | .xorV _ _ _ => [⟨9, 0, 22⟩, ⟨31, 28, 0⟩]
  | .shlS _ _ _ => [⟨9, 0, 7⟩, ⟨31, 28, 0⟩]
  | .shlV _ _ _ => [⟨9, 0, 23⟩, ⟨31, 28, 0⟩]
  | .shrS _ _ _ => [⟨9, 0, 8⟩, ⟨31, 28, 0⟩]
  | .shrV _ _ _ => [⟨9, 0, 24⟩, ⟨31, 28, 0⟩]
  | .rolS _ _ _ => [⟨9, 0, 9⟩, ⟨31, 28, 0⟩]
  | .rolV _ _ _ => [⟨9, 0, 25⟩, ⟨31, 28, 0⟩]
  | .rorS _ _ _ => [⟨9, 0, 10⟩, ⟨31, 28, 0⟩]
  | .rorV _ _ _ => [⟨9, 0, 26⟩, ⟨31, 28, 0⟩]
  | .addAddrS _ _ _ => [⟨9, 0, 11⟩, ⟨31, 28, 0⟩]
  | .addAddrV _ _ _ => [⟨9, 0, 27⟩, ⟨31, 28, 0⟩]
  | .shlAddrS _ _ _ => [⟨9, 0, 12⟩, ⟨31, 28, 0⟩]
  | .shlAddrV _ _ _ => [⟨9, 0, 28⟩, ⟨31, 28, 0⟩]
  | .addIaddrS _ _ _ => [⟨9, 0, 13⟩, ⟨31, 28, 0⟩]
  | .addIaddrV _ _ _ => [⟨9, 0, 29⟩, ⟨31, 28, 0⟩]
  | .divS _ _ _ _ => [⟨3, 0, 14⟩, ⟨31, 28, 0⟩]
  | .divV _ _ _ _ => [⟨3, 0, 15⟩, ⟨31, 28, 0⟩]
  | .addR _ _ => [⟨9, 0, 0⟩, ⟨31, 28, 1⟩]
  | .mulR _ _ => [⟨9, 0, 1⟩, ⟨31, 28, 1⟩]
  | .maxR _ _ => [⟨9, 0, 2⟩, ⟨31, 28, 1⟩]
  | .minR _ _ => [⟨9, 0, 3⟩, ⟨31, 28, 1⟩]
  | .andR _ _ => [⟨9, 0, 4⟩, ⟨31, 28, 1⟩]
  | .orR _ _ => [⟨9, 0, 5⟩, ⟨31, 28, 1⟩]
  | .xorR _ _ => [⟨9, 0, 6⟩, ⟨31, 28, 1⟩]
  | .ldu8i _ _ _ => [⟨3, 0, 0⟩, ⟨31, 28, 2⟩]
  | .lds8i _ _ _ => [⟨3, 0, 1⟩, ⟨31, 28, 2⟩]
  | .ldu16i _ _ _ => [⟨3, 0, 2⟩, ⟨31, 28, 2⟩]
  | .lds16i _ _ _ => [⟨3, 0, 3⟩, ⟨31, 28, 2⟩]
  | .ldu32i _ _ _ => [⟨3, 0, 4⟩, ⟨31, 28, 2⟩]
  | .lds32i _ _ _ => [⟨3, 0, 5⟩, ⟨31, 28, 2⟩]
  | .ldu64i _ _ _ => [⟨3, 0, 6⟩, ⟨31, 28, 2⟩]
  | .lds64i _ _ _ => [⟨3, 0, 7⟩, ⟨31, 28, 2⟩]
  | .ldu8iAddr _ _ _ => [⟨3, 0, 0⟩, ⟨31, 28, 3⟩]
  | .lds8iAddr _ _ _ => [⟨3, 0, 1⟩, ⟨31, 28, 3⟩]
  | .ldu16iAddr _ _ _ => [⟨3, 0, 2⟩, ⟨31, 28, 3⟩]
  | .lds16iAddr _ _ _ => [⟨3, 0, 3⟩, ⟨31, 28, 3⟩]
  | .ldu32iAddr _ _ _ => [⟨3, 0, 4⟩, ⟨31, 28, 3⟩]
  | .lds32iAddr _ _ _ => [⟨3, 0, 5⟩, ⟨31, 28, 3⟩]
  | .ldu64iAddr _ _ _ => [⟨3, 0, 6⟩, ⟨31, 28, 3⟩]
  | .lds64iAddr _ _ _ => [⟨3, 0, 7⟩, ⟨31, 28, 3⟩]
  | .ldu8 _ _ _ => [⟨9, 0, 0⟩, ⟨31, 28, 4⟩]
  | .lds8 _ _ _ => [⟨9, 0, 1⟩, ⟨31, 28, 4⟩]
  | .ldu16 _ _ _ => [⟨9, 0, 2⟩, ⟨31, 28, 4⟩]
  | .lds16 _ _ _ => [⟨9, 0, 3⟩, ⟨31, 28, 4⟩]
  | .ldu32 _ _ _ => [⟨9, 0, 4⟩, ⟨31, 28, 4⟩]
  | .lds32 _ _ _ => [⟨9, 0, 5⟩, ⟨31, 28, 4⟩]
  | .ldu64 _ _ _ => [⟨9, 0, 6⟩, ⟨31, 28, 4⟩]
  | .lds64 _ _ _ => [⟨9, 0, 7⟩, ⟨31, 28, 4⟩]
  | .stu8i _ _ _ => [⟨3, 0, 0⟩, ⟨31, 28, 5⟩]
  | .sts8i _ _ _ => [⟨3, 0, 1⟩, ⟨31, 28, 5⟩]
  | .stu16i _ _ _ => [⟨3, 0, 2⟩, ⟨31, 28, 5⟩]
  | .sts16i _ _ _ => [⟨3, 0, 3⟩, ⟨31, 28, 5⟩]
  | .stu32i _ _ _ => [⟨3, 0, 4⟩, ⟨31, 28, 5⟩]
  | .sts32i _ _ _ => [⟨3, 0, 5⟩, ⟨31, 28, 5⟩]
  | .stu64i _ _ _ => [⟨3, 0, 6⟩, ⟨31, 28, 5⟩]
  | .sts64i _ _ _ => [⟨3, 0, 7⟩, ⟨31, 28, 5⟩]
  | .dpu8 _ _ => [⟨15, 0, 0⟩, ⟨31, 28, 6⟩]
  | .dps8 _ _ => [⟨15, 0, 1⟩, ⟨31, 28, 6⟩]
  | .dpu16 _ _ => [⟨15, 0, 2⟩, ⟨31, 28, 6⟩]
  | .dps16 _ _ => [⟨15, 0, 3⟩, ⟨31, 28, 6⟩]
  | .dpu32 _ _ => [⟨15, 0, 4⟩, ⟨31, 28, 6⟩]
  | .dps32 _ _ => [⟨15, 0, 5⟩, ⟨31, 28, 6⟩]
  | .dpu64 _ _ => [⟨15, 0, 6⟩, ⟨31, 28, 6⟩]
  | .dps64 _ _ => [⟨15, 0, 7⟩, ⟨31, 28, 6⟩]
  | .fetchReg _ _ _ _ => [⟨0, 0, 0⟩, ⟨9, 5, 0⟩, ⟨31, 28, 7⟩]
  | .fetchImm _ _ _ _ => [⟨0, 0, 1⟩, ⟨31, 28, 7⟩]
  | .selS _ _ _ _ => [⟨4, 0, 0⟩, ⟨15, 15, 0⟩, ⟨31, 28, 8⟩]
  | .selV _ _ _ _ => [⟨4, 0, 16⟩, ⟨15, 15, 0⟩, ⟨31, 28, 8⟩]
  | .jzS _ _ _ => [⟨4, 0, 1⟩, ⟨15, 15, 0⟩, ⟨31, 28, 8⟩]
  | .jzV _ _ _ => [⟨4, 0, 17⟩, ⟨15, 15, 0⟩, ⟨31, 28, 8⟩]
  | .jnzS _ _ _ => [⟨4, 0, 2⟩, ⟨15, 15, 0⟩, ⟨31, 28, 8⟩]
  | .jnzV _ _ _ => [⟨4, 0, 18⟩, ⟨15, 15, 0⟩, ⟨31, 28, 8⟩]
  | .retiS _ => [⟨4, 0, 3⟩, ⟨15, 15, 0⟩, ⟨31, 28, 8⟩]
  | .retiV _ => [⟨4, 0, 19⟩, ⟨15, 15, 0⟩, ⟨31, 28, 8⟩]
  | .retxS _ => [⟨4, 0, 4⟩, ⟨15, 15, 0⟩, ⟨31, 28, 8⟩]
  | .retxV _ => [⟨4, 0, 20⟩, ⟨15, 15, 0⟩, ⟨31, 28, 8⟩]
  | .getaddrsU _ _ _ => [⟨3, 0, 0⟩, ⟨31, 28, 9⟩]
  | .getaddrsS _ _ _ => [⟨3, 0, 8⟩, ⟨31, 28, 9⟩]
  | .getaddrsIU _ _ _ => [⟨3, 0, 1⟩, ⟨31, 28, 9⟩]
  | .getaddrsIS _ _ _ => [⟨3, 0, 9⟩, ⟨31, 28, 9⟩]
  | .gettypesU _ _ _ => [⟨3, 0, 2⟩, ⟨31, 28, 9⟩]
  | .gettypesS _ _ _ => [⟨3, 0, 10⟩, ⟨31, 28, 9⟩]
  | .ldmU _ _ _ _ => [⟨3, 0, 3⟩, ⟨31, 28, 9⟩]
  | .ldmS _ _ _ _ => [⟨3, 0, 11⟩, ⟨31, 28, 9⟩]
  | .fetchmU _ _ _ => [⟨3, 0, 4⟩, ⟨31, 28, 9⟩]
  | .fetchmS _ _ _ => [⟨3, 0, 12⟩, ⟨31, 28, 9⟩]
  | .reloadU _ _ => [⟨3, 0, 5⟩, ⟨31, 28, 9⟩]
  | .reloadS _ _ => [⟨3, 0, 13⟩, ⟨31, 28, 9⟩]
  | .flushU _ _ => [⟨3, 0, 6⟩, ⟨31, 28, 9⟩]
  | .flushS _ _ => [⟨3, 0, 14⟩, ⟨31, 28, 9⟩]
  | .reloadIU _ _ => [⟨3, 0, 7⟩, ⟨31, 28, 9⟩]
  | .reloadIS _ _ => [⟨3, 0, 15⟩, ⟨31, 28, 9⟩]
  | .cpyFromIe _ => [⟨3, 0, 0⟩, ⟨31, 28, 10⟩]
  | .cpyToIe _ => [⟨3, 0, 1⟩, ⟨31, 28, 10⟩]
  | .cpyFromXct _ => [⟨3, 0, 2⟩, ⟨31, 28, 10⟩]
  | .cpyToXct _ => [⟨3, 0, 3⟩, ⟨31, 28, 10⟩]
  | .cpyFromSwiarg0 _ => [⟨3, 0, 4⟩, ⟨31, 28, 10⟩]
  | .cpyToSwiarg0 _ => [⟨3, 0, 5⟩, ⟨31, 28, 10⟩]
  | .cpyFromSwiarg1 _ => [⟨3, 0, 6⟩, ⟨31, 28, 10⟩]
  | .cpyToSwiarg1 _ => [⟨3, 0, 7⟩, ⟨31, 28, 10⟩]
  | .cpyFromSwiarg2 _ => [⟨3, 0, 8⟩, ⟨31, 28, 10⟩]
  | .cpyToSwiarg2 _ => [⟨3, 0, 9⟩, ⟨31, 28, 10⟩]
  | .cpyFromSwiarg3 _ => [⟨3, 0, 10⟩, ⟨31, 28, 10⟩]
  | .cpyToSwiarg3 _ => [⟨3, 0, 11⟩, ⟨31, 28, 10⟩]
  | .swi _ _ _ _ => [⟨3, 0, 12⟩, ⟨31, 28, 10⟩]
  | .inu8S _ _ _ => [⟨9, 0, 0⟩, ⟨31, 28, 11⟩]
  | .inu8V _ _ _ => [⟨9, 0, 32⟩, ⟨31, 28, 11⟩]
  | .ins8S _ _ _ => [⟨9, 0, 1⟩, ⟨31, 28, 11⟩]
  | .ins8V _ _ _ => [⟨9, 0, 33⟩, ⟨31, 28, 11⟩]
  | .inu16S _ _ _ => [⟨9, 0, 2⟩, ⟨31, 28, 11⟩]
  | .inu16V _ _ _ => [⟨9, 0, 34⟩, ⟨31, 28, 11⟩]
  | .ins16S _ _ _ => [⟨9, 0, 3⟩, ⟨31, 28, 11⟩]
  | .ins16V _ _ _ => [⟨9, 0, 35⟩, ⟨31, 28, 11⟩]
  | .inu32S _ _ _ => [⟨9, 0, 4⟩, ⟨31, 28, 11⟩]
  | .inu32V _ _ _ => [⟨9, 0, 36⟩, ⟨31, 28, 11⟩]
  | .ins32S _ _ _ => [⟨9, 0, 5⟩, ⟨31, 28, 11⟩]
  | .ins32V _ _ _ => [⟨9, 0, 37⟩, ⟨31, 28, 11⟩]
  | .inu64S _ _ _ => [⟨9, 0, 6⟩, ⟨31, 28, 11⟩]
  | .inu64V _ _ _ => [⟨9, 0, 38⟩, ⟨31, 28, 11⟩]
  | .ins64S _ _ _ => [⟨9, 0, 7⟩, ⟨31, 28, 11⟩]
  | .ins64V _ _ _ => [⟨9, 0, 39⟩, ⟨31, 28, 11⟩]
  | .outu8S _ _ _ => [⟨9, 0, 16⟩, ⟨31, 28, 11⟩]
  | .outu8V _ _ _ => [⟨9, 0, 48⟩, ⟨31, 28, 11⟩]
  | .outs8S _ _ _ => [⟨9, 0, 17⟩, ⟨31, 28, 11⟩]
  | .outs8V _ _ _ => [⟨9, 0, 49⟩, ⟨31, 28, 11⟩]
  | .outu16S _ _ _ => [⟨9, 0, 18⟩, ⟨31, 28, 11⟩]
  | .outu16V _ _ _ => [⟨9, 0, 50⟩, ⟨31, 28, 11⟩]
  | .outs16S _ _ _ => [⟨9, 0, 19⟩, ⟨31, 28, 11⟩]
  | .outs16V _ _ _ => [⟨9, 0, 51⟩, ⟨31, 28, 11⟩]
  | .outu32S _ _ _ => [⟨9, 0, 20⟩, ⟨31, 28, 11⟩]
  | .outu32V _ _ _ => [⟨9, 0, 52⟩, ⟨31, 28, 11⟩]
  | .outs32S _ _ _ => [⟨9, 0, 21⟩, ⟨31, 28, 11⟩]
  | .outs32V _ _ _ => [⟨9, 0, 53⟩, ⟨31, 28, 11⟩]
  | .outu64S _ _ _ => [⟨9, 0, 22⟩, ⟨31, 28, 11⟩]
  | .outu64V _ _ _ => [⟨9, 0, 54⟩, ⟨31, 28, 11⟩]
  | .outs64S _ _ _ => [⟨9, 0, 23⟩, ⟨31, 28, 11⟩]
  | .outs64V _ _ _ => [⟨9, 0, 55⟩, ⟨31, 28, 11⟩]

/-- The word of a well-formed instruction has the fixed bits of its row. -/
def Statement (i : Instr) : Prop :=
  i.wellFormed = true → ∀ f ∈ fixedBits i, field (encode i) f.hi f.lo = f.value

/-! ### One lemma per encoding line -/

variable {i : Instr} {a b c d : Fin 64} {g : Nat}

/-- The low bits and the group of a word. -/
theorem of_pack {low hi v : Nat} (e : encode i = pack g a b low) (hf : fixedBits i = [⟨hi, 0, v⟩, ⟨31, 28, g⟩])
    (hg : g < 16) (hl : low < 2 ^ 16) (hh : hi < 16) (hv : low % 2 ^ (hi + 1) = v) : Statement i := by
  intro _ f h
  rw [hf] at h
  rw [e]
  simp only [List.mem_cons, List.not_mem_nil, or_false] at h
  rcases h with rfl | rfl
  · rw [field_pack_low hg a b hl hh (Nat.zero_le _)]
    simpa using hv
  · exact field_pack_group hg a b hl

theorem abc {low : Nat} (e : encode i = fmtABC g a b c low) (hf : fixedBits i = [⟨9, 0, low⟩, ⟨31, 28, g⟩]) (hg : g < 16)
    (hl : low < 1024) : Statement i := by
  have hc := c.isLt
  exact of_pack e hf hg (by omega) (by decide) (by omega)

theorem ab {low : Nat} (e : encode i = fmtABC g a b 0 low) (hf : fixedBits i = [⟨15, 0, low⟩, ⟨31, 28, g⟩]) (hg : g < 16)
    (hl : low < 1024) : Statement i :=
  of_pack e hf hg (low := (0 : Fin 64).val * 2 ^ 10 + low) (by simp; omega) (by decide) (by simp; omega)

theorem abcd {o : Nat} (e : encode i = fmtABCD g a b c d o) (hf : fixedBits i = [⟨3, 0, o⟩, ⟨31, 28, g⟩]) (hg : g < 16)
    (ho : o < 16) : Statement i := by
  have hc := c.isLt
  have hd := d.isLt
  exact of_pack e hf hg (by omega) (by decide) (by omega)

theorem imm {n : Int} {o : Nat} (e : encode i = fmtImm g a b n o) (hf : fixedBits i = [⟨3, 0, o⟩, ⟨31, 28, g⟩]) (hg : g < 16)
    (ho : o < 16) : Statement i := by
  have hn := (BitVec.ofInt 12 n).isLt
  exact of_pack e hf hg (by omega) (by decide) (by omega)

theorem jump {x y vo : Nat} (e : encode i = fmtJump a b x y vo)
    (hf : fixedBits i = [⟨4, 0, vo⟩, ⟨15, 15, 0⟩, ⟨31, 28, 8⟩]) (hw : i.wellFormed = true → x < 32 ∧ y < 32) (ho : vo < 32) :
    Statement i := by
  intro w f h
  have ⟨hx, hy⟩ := hw w
  have hl : x * 2 ^ 10 + y * 2 ^ 5 + vo < 2 ^ 16 := by omega
  rw [hf] at h
  rw [e, fmtJump]
  simp only [List.mem_cons, List.not_mem_nil, or_false] at h
  rcases h with rfl | rfl | rfl
  · dsimp only
    rw [field_pack_low (by decide) a b hl (by decide) (by decide)]
    omega
  · rw [field_pack_low (by decide) a b hl (by decide) (by decide)]
    dsimp only
    omega
  · exact field_pack_group (by decide) a b hl

theorem lar {n so : Nat} (e : encode i = fmtLar a b c n so) (hf : fixedBits i = [⟨3, 0, so⟩, ⟨31, 28, 9⟩])
    (hw : i.wellFormed = true → n < 64) (ho : so < 16) : Statement i := by
  intro w
  have hc := c.isLt
  have hn := hw w
  exact of_pack e hf (by decide) (by omega) (by decide) (by omega) w

/-! ### One lemma per instruction -/

theorem addS (a : DReg) (b : DReg) (c : DReg) : Statement (.addS a b c) := abc rfl rfl (by decide) (by decide)
theorem addV (a : DReg) (b : DReg) (c : DReg) : Statement (.addV a b c) := abc rfl rfl (by decide) (by decide)
theorem subS (a : DReg) (b : DReg) (c : DReg) : Statement (.subS a b c) := abc rfl rfl (by decide) (by decide)
theorem subV (a : DReg) (b : DReg) (c : DReg) : Statement (.subV a b c) := abc rfl rfl (by decide) (by decide)
theorem sltS (a : DReg) (b : DReg) (c : DReg) : Statement (.sltS a b c) := abc rfl rfl (by decide) (by decide)
theorem sltV (a : DReg) (b : DReg) (c : DReg) : Statement (.sltV a b c) := abc rfl rfl (by decide) (by decide)
theorem mulS (a : DReg) (b : DReg) (c : DReg) : Statement (.mulS a b c) := abc rfl rfl (by decide) (by decide)
theorem mulV (a : DReg) (b : DReg) (c : DReg) : Statement (.mulV a b c) := abc rfl rfl (by decide) (by decide)
theorem andS (a : DReg) (b : DReg) (c : DReg) : Statement (.andS a b c) := abc rfl rfl (by decide) (by decide)
theorem andV (a : DReg) (b : DReg) (c : DReg) : Statement (.andV a b c) := abc rfl rfl (by decide) (by decide)
theorem orS (a : DReg) (b : DReg) (c : DReg) : Statement (.orS a b c) := abc rfl rfl (by decide) (by decide)
theorem orV (a : DReg) (b : DReg) (c : DReg) : Statement (.orV a b c) := abc rfl rfl (by decide) (by decide)
theorem xorS (a : DReg) (b : DReg) (c : DReg) : Statement (.xorS a b c) := abc rfl rfl (by decide) (by decide)
theorem xorV (a : DReg) (b : DReg) (c : DReg) : Statement (.xorV a b c) := abc rfl rfl (by decide) (by decide)
theorem shlS (a : DReg) (b : DReg) (c : DReg) : Statement (.shlS a b c) := abc rfl rfl (by decide) (by decide)
theorem shlV (a : DReg) (b : DReg) (c : DReg) : Statement (.shlV a b c) := abc rfl rfl (by decide) (by decide)
theorem shrS (a : DReg) (b : DReg) (c : DReg) : Statement (.shrS a b c) := abc rfl rfl (by decide) (by decide)
theorem shrV (a : DReg) (b : DReg) (c : DReg) : Statement (.shrV a b c) := abc rfl rfl (by decide) (by decide)
theorem rolS (a : DReg) (b : DReg) (c : DReg) : Statement (.rolS a b c) := abc rfl rfl (by decide) (by decide)
theorem rolV (a : DReg) (b : DReg) (c : DReg) : Statement (.rolV a b c) := abc rfl rfl (by decide) (by decide)
theorem rorS (a : DReg) (b : DReg) (c : DReg) : Statement (.rorS a b c) := abc rfl rfl (by decide) (by decide)
theorem rorV (a : DReg) (b : DReg) (c : DReg) : Statement (.rorV a b c) := abc rfl rfl (by decide) (by decide)
theorem addAddrS (a : DReg) (b : DReg) (c : DReg) : Statement (.addAddrS a b c) := abc rfl rfl (by decide) (by decide)
theorem addAddrV (a : DReg) (b : DReg) (c : DReg) : Statement (.addAddrV a b c) := abc rfl rfl (by decide) (by decide)
theorem shlAddrS (a : DReg) (b : DReg) (c : DReg) : Statement (.shlAddrS a b c) := abc rfl rfl (by decide) (by decide)
theorem shlAddrV (a : DReg) (b : DReg) (c : DReg) : Statement (.shlAddrV a b c) := abc rfl rfl (by decide) (by decide)
theorem addIaddrS (a : DReg) (b : IReg) (c : DReg) : Statement (.addIaddrS a b c) := abc rfl rfl (by decide) (by decide)
theorem addIaddrV (a : DReg) (b : IReg) (c : DReg) : Statement (.addIaddrV a b c) := abc rfl rfl (by decide) (by decide)
theorem divS (a : DReg) (b : DReg) (c : DReg) (d : DReg) : Statement (.divS a b c d) := abcd rfl rfl (by decide) (by decide)
theorem divV (a : DReg) (b : DReg) (c : DReg) (d : DReg) : Statement (.divV a b c d) := abcd rfl rfl (by decide) (by decide)
theorem addR (a : DReg) (b : DReg) : Statement (.addR a b) := abc rfl rfl (by decide) (by decide)
theorem mulR (a : DReg) (b : DReg) : Statement (.mulR a b) := abc rfl rfl (by decide) (by decide)
theorem maxR (a : DReg) (b : DReg) : Statement (.maxR a b) := abc rfl rfl (by decide) (by decide)
theorem minR (a : DReg) (b : DReg) : Statement (.minR a b) := abc rfl rfl (by decide) (by decide)
theorem andR (a : DReg) (b : DReg) : Statement (.andR a b) := abc rfl rfl (by decide) (by decide)
theorem orR (a : DReg) (b : DReg) : Statement (.orR a b) := abc rfl rfl (by decide) (by decide)
theorem xorR (a : DReg) (b : DReg) : Statement (.xorR a b) := abc rfl rfl (by decide) (by decide)
theorem ldu8i (a : DReg) (b : DReg) (imm : Int) : Statement (.ldu8i a b imm) := Sys2Proof.Laws.TableFixed.imm rfl rfl (by decide) (by decide)
theorem lds8i (a : DReg) (b : DReg) (imm : Int) : Statement (.lds8i a b imm) := Sys2Proof.Laws.TableFixed.imm rfl rfl (by decide) (by decide)
theorem ldu16i (a : DReg) (b : DReg) (imm : Int) : Statement (.ldu16i a b imm) := Sys2Proof.Laws.TableFixed.imm rfl rfl (by decide) (by decide)
theorem lds16i (a : DReg) (b : DReg) (imm : Int) : Statement (.lds16i a b imm) := Sys2Proof.Laws.TableFixed.imm rfl rfl (by decide) (by decide)
theorem ldu32i (a : DReg) (b : DReg) (imm : Int) : Statement (.ldu32i a b imm) := Sys2Proof.Laws.TableFixed.imm rfl rfl (by decide) (by decide)
theorem lds32i (a : DReg) (b : DReg) (imm : Int) : Statement (.lds32i a b imm) := Sys2Proof.Laws.TableFixed.imm rfl rfl (by decide) (by decide)
theorem ldu64i (a : DReg) (b : DReg) (imm : Int) : Statement (.ldu64i a b imm) := Sys2Proof.Laws.TableFixed.imm rfl rfl (by decide) (by decide)
theorem lds64i (a : DReg) (b : DReg) (imm : Int) : Statement (.lds64i a b imm) := Sys2Proof.Laws.TableFixed.imm rfl rfl (by decide) (by decide)
theorem ldu8iAddr (a : DReg) (b : DReg) (imm : Int) : Statement (.ldu8iAddr a b imm) := Sys2Proof.Laws.TableFixed.imm rfl rfl (by decide) (by decide)
theorem lds8iAddr (a : DReg) (b : DReg) (imm : Int) : Statement (.lds8iAddr a b imm) := Sys2Proof.Laws.TableFixed.imm rfl rfl (by decide) (by decide)
theorem ldu16iAddr (a : DReg) (b : DReg) (imm : Int) : Statement (.ldu16iAddr a b imm) := Sys2Proof.Laws.TableFixed.imm rfl rfl (by decide) (by decide)
theorem lds16iAddr (a : DReg) (b : DReg) (imm : Int) : Statement (.lds16iAddr a b imm) := Sys2Proof.Laws.TableFixed.imm rfl rfl (by decide) (by decide)
theorem ldu32iAddr (a : DReg) (b : DReg) (imm : Int) : Statement (.ldu32iAddr a b imm) := Sys2Proof.Laws.TableFixed.imm rfl rfl (by decide) (by decide)
theorem lds32iAddr (a : DReg) (b : DReg) (imm : Int) : Statement (.lds32iAddr a b imm) := Sys2Proof.Laws.TableFixed.imm rfl rfl (by decide) (by decide)
theorem ldu64iAddr (a : DReg) (b : DReg) (imm : Int) : Statement (.ldu64iAddr a b imm) := Sys2Proof.Laws.TableFixed.imm rfl rfl (by decide) (by decide)
theorem lds64iAddr (a : DReg) (b : DReg) (imm : Int) : Statement (.lds64iAddr a b imm) := Sys2Proof.Laws.TableFixed.imm rfl rfl (by decide) (by decide)
theorem ldu8 (a : DReg) (b : DReg) (c : DReg) : Statement (.ldu8 a b c) := abc rfl rfl (by decide) (by decide)
theorem lds8 (a : DReg) (b : DReg) (c : DReg) : Statement (.lds8 a b c) := abc rfl rfl (by decide) (by decide)
theorem ldu16 (a : DReg) (b : DReg) (c : DReg) : Statement (.ldu16 a b c) := abc rfl rfl (by decide) (by decide)
theorem lds16 (a : DReg) (b : DReg) (c : DReg) : Statement (.lds16 a b c) := abc rfl rfl (by decide) (by decide)
theorem ldu32 (a : DReg) (b : DReg) (c : DReg) : Statement (.ldu32 a b c) := abc rfl rfl (by decide) (by decide)
theorem lds32 (a : DReg) (b : DReg) (c : DReg) : Statement (.lds32 a b c) := abc rfl rfl (by decide) (by decide)
theorem ldu64 (a : DReg) (b : DReg) (c : DReg) : Statement (.ldu64 a b c) := abc rfl rfl (by decide) (by decide)
theorem lds64 (a : DReg) (b : DReg) (c : DReg) : Statement (.lds64 a b c) := abc rfl rfl (by decide) (by decide)
theorem stu8i (a : DReg) (b : DReg) (imm : Int) : Statement (.stu8i a b imm) := Sys2Proof.Laws.TableFixed.imm rfl rfl (by decide) (by decide)
theorem sts8i (a : DReg) (b : DReg) (imm : Int) : Statement (.sts8i a b imm) := Sys2Proof.Laws.TableFixed.imm rfl rfl (by decide) (by decide)
theorem stu16i (a : DReg) (b : DReg) (imm : Int) : Statement (.stu16i a b imm) := Sys2Proof.Laws.TableFixed.imm rfl rfl (by decide) (by decide)
theorem sts16i (a : DReg) (b : DReg) (imm : Int) : Statement (.sts16i a b imm) := Sys2Proof.Laws.TableFixed.imm rfl rfl (by decide) (by decide)
theorem stu32i (a : DReg) (b : DReg) (imm : Int) : Statement (.stu32i a b imm) := Sys2Proof.Laws.TableFixed.imm rfl rfl (by decide) (by decide)
theorem sts32i (a : DReg) (b : DReg) (imm : Int) : Statement (.sts32i a b imm) := Sys2Proof.Laws.TableFixed.imm rfl rfl (by decide) (by decide)
theorem stu64i (a : DReg) (b : DReg) (imm : Int) : Statement (.stu64i a b imm) := Sys2Proof.Laws.TableFixed.imm rfl rfl (by decide) (by decide)
theorem sts64i (a : DReg) (b : DReg) (imm : Int) : Statement (.sts64i a b imm) := Sys2Proof.Laws.TableFixed.imm rfl rfl (by decide) (by decide)
theorem dpu8 (a : DReg) (b : DReg) : Statement (.dpu8 a b) := ab rfl rfl (by decide) (by decide)
theorem dps8 (a : DReg) (b : DReg) : Statement (.dps8 a b) := ab rfl rfl (by decide) (by decide)
theorem dpu16 (a : DReg) (b : DReg) : Statement (.dpu16 a b) := ab rfl rfl (by decide) (by decide)
theorem dps16 (a : DReg) (b : DReg) : Statement (.dps16 a b) := ab rfl rfl (by decide) (by decide)
theorem dpu32 (a : DReg) (b : DReg) : Statement (.dpu32 a b) := ab rfl rfl (by decide) (by decide)
theorem dps32 (a : DReg) (b : DReg) : Statement (.dps32 a b) := ab rfl rfl (by decide) (by decide)
theorem dpu64 (a : DReg) (b : DReg) : Statement (.dpu64 a b) := ab rfl rfl (by decide) (by decide)
theorem dps64 (a : DReg) (b : DReg) : Statement (.dps64 a b) := ab rfl rfl (by decide) (by decide)
theorem fetchReg (a : IReg) (b : IReg) (c : DReg) (j : Nat) : Statement (.fetchReg a b c j) := by
  intro w f h
  have hj : j < 16 := by simpa [Instr.wellFormed, fitsJimm4] using w
  have hc := c.isLt
  have hl : c.val * 2 ^ 10 + j * 2 < 2 ^ 16 := by omega
  simp only [fixedBits, List.mem_cons, List.not_mem_nil, or_false] at h
  rw [encode, fmtFetchReg, fmtABC]
  rcases h with rfl | rfl | rfl
  · rw [field_pack_low (by decide) a b hl (by decide) (by decide)]
    dsimp only
    omega
  · rw [field_pack_low (by decide) a b hl (by decide) (by decide)]
    dsimp only
    omega
  · exact field_pack_group (by decide) a b hl
theorem fetchImm (a : IReg) (b : IReg) (imm : Int) (j : Nat) : Statement (.fetchImm a b imm j) := by
  intro w
  have hn := (BitVec.ofInt 11 imm).isLt
  have hj : j < 16 := by
    have : fitsIsimm11 imm = true ∧ fitsJimm4 j = true := by simpa [Instr.wellFormed] using w
    simpa [fitsJimm4] using this.2
  exact of_pack (by rfl) rfl (by decide) (by omega) (by decide) (by omega) w
theorem selS (a : DReg) (b : IReg) (i : Nat) (j : Nat) : Statement (.selS a b i j) := jump rfl rfl (by simp [Instr.wellFormed, fitsIndex5]) (by decide)
theorem selV (a : DReg) (b : IReg) (i : Nat) (j : Nat) : Statement (.selV a b i j) := jump rfl rfl (by simp [Instr.wellFormed, fitsIndex5]) (by decide)
theorem jzS (a : DReg) (b : IReg) (i : Nat) : Statement (.jzS a b i) := jump rfl rfl (by simp [Instr.wellFormed, fitsIndex5]) (by decide)
theorem jzV (a : DReg) (b : IReg) (i : Nat) : Statement (.jzV a b i) := jump rfl rfl (by simp [Instr.wellFormed, fitsIndex5]) (by decide)
theorem jnzS (a : DReg) (b : IReg) (i : Nat) : Statement (.jnzS a b i) := jump rfl rfl (by simp [Instr.wellFormed, fitsIndex5]) (by decide)
theorem jnzV (a : DReg) (b : IReg) (i : Nat) : Statement (.jnzV a b i) := jump rfl rfl (by simp [Instr.wellFormed, fitsIndex5]) (by decide)
theorem retiS (a : DReg) : Statement (.retiS a) := jump rfl rfl (by simp [Instr.wellFormed]) (by decide)
theorem retiV (a : DReg) : Statement (.retiV a) := jump rfl rfl (by simp [Instr.wellFormed]) (by decide)
theorem retxS (a : DReg) : Statement (.retxS a) := jump rfl rfl (by simp [Instr.wellFormed]) (by decide)
theorem retxV (a : DReg) : Statement (.retxV a) := jump rfl rfl (by simp [Instr.wellFormed]) (by decide)
theorem getaddrsU (a : DReg) (b : DReg) (n : Nat) : Statement (.getaddrsU a b n) := lar rfl rfl (by simp [Instr.wellFormed, fitsImm6]) (by decide)
theorem getaddrsS (a : DReg) (b : DReg) (n : Nat) : Statement (.getaddrsS a b n) := lar rfl rfl (by simp [Instr.wellFormed, fitsImm6]) (by decide)
theorem getaddrsIU (a : DReg) (b : IReg) (n : Nat) : Statement (.getaddrsIU a b n) := lar rfl rfl (by simp [Instr.wellFormed, fitsImm6]) (by decide)
theorem getaddrsIS (a : DReg) (b : IReg) (n : Nat) : Statement (.getaddrsIS a b n) := lar rfl rfl (by simp [Instr.wellFormed, fitsImm6]) (by decide)
theorem gettypesU (a : DReg) (b : DReg) (n : Nat) : Statement (.gettypesU a b n) := lar rfl rfl (by simp [Instr.wellFormed, fitsImm6]) (by decide)
theorem gettypesS (a : DReg) (b : DReg) (n : Nat) : Statement (.gettypesS a b n) := lar rfl rfl (by simp [Instr.wellFormed, fitsImm6]) (by decide)
theorem ldmU (a : DReg) (b : DReg) (c : DReg) (n : Nat) : Statement (.ldmU a b c n) := lar rfl rfl (by simp [Instr.wellFormed, fitsImm6]) (by decide)
theorem ldmS (a : DReg) (b : DReg) (c : DReg) (n : Nat) : Statement (.ldmS a b c n) := lar rfl rfl (by simp [Instr.wellFormed, fitsImm6]) (by decide)
theorem fetchmU (a : IReg) (b : DReg) (n : Nat) : Statement (.fetchmU a b n) := lar rfl rfl (by simp [Instr.wellFormed, fitsImm6]) (by decide)
theorem fetchmS (a : IReg) (b : DReg) (n : Nat) : Statement (.fetchmS a b n) := lar rfl rfl (by simp [Instr.wellFormed, fitsImm6]) (by decide)
theorem reloadU (a : DReg) (n : Nat) : Statement (.reloadU a n) := lar rfl rfl (by simp [Instr.wellFormed, fitsImm6]) (by decide)
theorem reloadS (a : DReg) (n : Nat) : Statement (.reloadS a n) := lar rfl rfl (by simp [Instr.wellFormed, fitsImm6]) (by decide)
theorem flushU (a : DReg) (n : Nat) : Statement (.flushU a n) := lar rfl rfl (by simp [Instr.wellFormed, fitsImm6]) (by decide)
theorem flushS (a : DReg) (n : Nat) : Statement (.flushS a n) := lar rfl rfl (by simp [Instr.wellFormed, fitsImm6]) (by decide)
theorem reloadIU (a : IReg) (n : Nat) : Statement (.reloadIU a n) := lar rfl rfl (by simp [Instr.wellFormed, fitsImm6]) (by decide)
theorem reloadIS (a : IReg) (n : Nat) : Statement (.reloadIS a n) := lar rfl rfl (by simp [Instr.wellFormed, fitsImm6]) (by decide)
theorem cpyFromIe (a : DReg) : Statement (.cpyFromIe a) := abcd rfl rfl (by decide) (by decide)
theorem cpyToIe (a : DReg) : Statement (.cpyToIe a) := abcd rfl rfl (by decide) (by decide)
theorem cpyFromXct (a : DReg) : Statement (.cpyFromXct a) := abcd rfl rfl (by decide) (by decide)
theorem cpyToXct (a : DReg) : Statement (.cpyToXct a) := abcd rfl rfl (by decide) (by decide)
theorem cpyFromSwiarg0 (a : DReg) : Statement (.cpyFromSwiarg0 a) := abcd rfl rfl (by decide) (by decide)
theorem cpyToSwiarg0 (a : DReg) : Statement (.cpyToSwiarg0 a) := abcd rfl rfl (by decide) (by decide)
theorem cpyFromSwiarg1 (a : DReg) : Statement (.cpyFromSwiarg1 a) := abcd rfl rfl (by decide) (by decide)
theorem cpyToSwiarg1 (a : DReg) : Statement (.cpyToSwiarg1 a) := abcd rfl rfl (by decide) (by decide)
theorem cpyFromSwiarg2 (a : DReg) : Statement (.cpyFromSwiarg2 a) := abcd rfl rfl (by decide) (by decide)
theorem cpyToSwiarg2 (a : DReg) : Statement (.cpyToSwiarg2 a) := abcd rfl rfl (by decide) (by decide)
theorem cpyFromSwiarg3 (a : DReg) : Statement (.cpyFromSwiarg3 a) := abcd rfl rfl (by decide) (by decide)
theorem cpyToSwiarg3 (a : DReg) : Statement (.cpyToSwiarg3 a) := abcd rfl rfl (by decide) (by decide)
theorem swi (a : DReg) (b : DReg) (c : DReg) (d : DReg) : Statement (.swi a b c d) := abcd rfl rfl (by decide) (by decide)
theorem inu8S (a : DReg) (b : DReg) (c : DReg) : Statement (.inu8S a b c) := abc rfl rfl (by decide) (by decide)
theorem inu8V (a : DReg) (b : DReg) (c : DReg) : Statement (.inu8V a b c) := abc rfl rfl (by decide) (by decide)
theorem ins8S (a : DReg) (b : DReg) (c : DReg) : Statement (.ins8S a b c) := abc rfl rfl (by decide) (by decide)
theorem ins8V (a : DReg) (b : DReg) (c : DReg) : Statement (.ins8V a b c) := abc rfl rfl (by decide) (by decide)
theorem inu16S (a : DReg) (b : DReg) (c : DReg) : Statement (.inu16S a b c) := abc rfl rfl (by decide) (by decide)
theorem inu16V (a : DReg) (b : DReg) (c : DReg) : Statement (.inu16V a b c) := abc rfl rfl (by decide) (by decide)
theorem ins16S (a : DReg) (b : DReg) (c : DReg) : Statement (.ins16S a b c) := abc rfl rfl (by decide) (by decide)
theorem ins16V (a : DReg) (b : DReg) (c : DReg) : Statement (.ins16V a b c) := abc rfl rfl (by decide) (by decide)
theorem inu32S (a : DReg) (b : DReg) (c : DReg) : Statement (.inu32S a b c) := abc rfl rfl (by decide) (by decide)
theorem inu32V (a : DReg) (b : DReg) (c : DReg) : Statement (.inu32V a b c) := abc rfl rfl (by decide) (by decide)
theorem ins32S (a : DReg) (b : DReg) (c : DReg) : Statement (.ins32S a b c) := abc rfl rfl (by decide) (by decide)
theorem ins32V (a : DReg) (b : DReg) (c : DReg) : Statement (.ins32V a b c) := abc rfl rfl (by decide) (by decide)
theorem inu64S (a : DReg) (b : DReg) (c : DReg) : Statement (.inu64S a b c) := abc rfl rfl (by decide) (by decide)
theorem inu64V (a : DReg) (b : DReg) (c : DReg) : Statement (.inu64V a b c) := abc rfl rfl (by decide) (by decide)
theorem ins64S (a : DReg) (b : DReg) (c : DReg) : Statement (.ins64S a b c) := abc rfl rfl (by decide) (by decide)
theorem ins64V (a : DReg) (b : DReg) (c : DReg) : Statement (.ins64V a b c) := abc rfl rfl (by decide) (by decide)
theorem outu8S (a : DReg) (b : DReg) (c : DReg) : Statement (.outu8S a b c) := abc rfl rfl (by decide) (by decide)
theorem outu8V (a : DReg) (b : DReg) (c : DReg) : Statement (.outu8V a b c) := abc rfl rfl (by decide) (by decide)
theorem outs8S (a : DReg) (b : DReg) (c : DReg) : Statement (.outs8S a b c) := abc rfl rfl (by decide) (by decide)
theorem outs8V (a : DReg) (b : DReg) (c : DReg) : Statement (.outs8V a b c) := abc rfl rfl (by decide) (by decide)
theorem outu16S (a : DReg) (b : DReg) (c : DReg) : Statement (.outu16S a b c) := abc rfl rfl (by decide) (by decide)
theorem outu16V (a : DReg) (b : DReg) (c : DReg) : Statement (.outu16V a b c) := abc rfl rfl (by decide) (by decide)
theorem outs16S (a : DReg) (b : DReg) (c : DReg) : Statement (.outs16S a b c) := abc rfl rfl (by decide) (by decide)
theorem outs16V (a : DReg) (b : DReg) (c : DReg) : Statement (.outs16V a b c) := abc rfl rfl (by decide) (by decide)
theorem outu32S (a : DReg) (b : DReg) (c : DReg) : Statement (.outu32S a b c) := abc rfl rfl (by decide) (by decide)
theorem outu32V (a : DReg) (b : DReg) (c : DReg) : Statement (.outu32V a b c) := abc rfl rfl (by decide) (by decide)
theorem outs32S (a : DReg) (b : DReg) (c : DReg) : Statement (.outs32S a b c) := abc rfl rfl (by decide) (by decide)
theorem outs32V (a : DReg) (b : DReg) (c : DReg) : Statement (.outs32V a b c) := abc rfl rfl (by decide) (by decide)
theorem outu64S (a : DReg) (b : DReg) (c : DReg) : Statement (.outu64S a b c) := abc rfl rfl (by decide) (by decide)
theorem outu64V (a : DReg) (b : DReg) (c : DReg) : Statement (.outu64V a b c) := abc rfl rfl (by decide) (by decide)
theorem outs64S (a : DReg) (b : DReg) (c : DReg) : Statement (.outs64S a b c) := abc rfl rfl (by decide) (by decide)
theorem outs64V (a : DReg) (b : DReg) (c : DReg) : Statement (.outs64V a b c) := abc rfl rfl (by decide) (by decide)

end Sys2Proof.Laws.TableFixed
end

