-- ==== Sys2Proof/Laws/Results.lean ====
section
/-! SUPPORT. What the shared forms of the instruction families answer, in the terms of Safety.lean: a value that computes an
integer, written into a scalar, a vector or an element; and effects made in the order of a list. -/

namespace Sys2Proof.Machine

theorem bytesOfLanes_congr (order : ByteOrder) (T : Ty) {f g : Nat → Int} (h : ∀ k, k < T.lanes → f k = g k) :
    bytesOfLanes order T f = bytesOfLanes order T g := by
  unfold bytesOfLanes
  rw [List.flatMap_def, List.flatMap_def]
  congr 1
  apply List.map_congr_left
  intro k hk
  rw [h k (List.mem_range.1 hk)]

/-- Writing a value of the register's type that computes `z` writes `z` into the scalar. -/
theorem writeScalar_written (s : State) (a : DReg) {v : TVal} {z : Int} (h : Computes v (s.typeOf a) z) :
    ScalarWritten s (s.writeScalar a v) a z := by
  have hb := bytes_of_bits (order := s.config.byteOrder) (v := v) (z := z) (by rw [h.1]; exact h.2)
  have := writeBytes_lineWritten s (s.reg a) (s.scalarPlace (s.typeOf a) a) (bytesOfInt s.config.byteOrder (s.typeOf a) z)
  unfold ScalarWritten State.writeScalar State.writeElem
  rw [hb, h.1]
  exact this

/-- Writing a value of the register's type that computes `z` writes `z` into the element. -/
theorem writeElem_written (s : State) (n : DReg) (e : Nat) {v : TVal} {z : Int} (h : Computes v (s.typeOf n) z) :
    ElementWritten s (s.writeElem (s.reg n) e v) n e z := by
  have hb := bytes_of_bits (order := s.config.byteOrder) (v := v) (z := z) (by rw [h.1]; exact h.2)
  unfold ElementWritten State.writeElem
  rw [hb, h.1]
  exact writeBytes_lineWritten s _ _ _

/-- Writing a line of values that compute `f 0`, `f 1`, ... writes them into the vector. -/
theorem writeVector_written (s : State) (a : DReg) (T : Ty) {g : Nat → TVal} {f : Nat → Int}
    (h : ∀ k, k < T.lanes → Computes (g k) T (f k)) :
    VectorWritten s (s.writeVector a (lineOfElems s.config.byteOrder T g)) a T f := by
  unfold VectorWritten State.writeVector
  rw [lineOfElems_toList _ _ _ _ h]
  exact writeBytes_lineWritten s _ _ _

/-- The scalar form of Group 0. -/
theorem scalarOp_gives {i : Instr} {s : State} {op : TVal → TVal → TVal} {a c : DReg} {x : TVal} {z : Int}
    (he : exec i s = scalarOp op a x c s)
    (h : Computes (op (cast (s.typeOf a) x) (cast (s.typeOf a) (s.scalar c))) (s.typeOf a) z) : GivesScalar s i a z :=
  ⟨_, _, he, writeScalar_written s a h, advance_fallsThrough _⟩

/-- The vector form of Group 0. -/
theorem vectorOp_gives {i : Instr} {s : State} {op : TVal → TVal → TVal} {a c : DReg} {x : Nat → TVal} {f : Nat → Int}
    (he : exec i s = vectorOp op a x c s)
    (h : ∀ k, k < (s.typeOf a).lanes →
      Computes (op (cast (s.typeOf a) (x k)) (cast (s.typeOf a) (s.lane c k))) (s.typeOf a) (f k)) : GivesVector s i a f :=
  ⟨_, _, he, writeVector_written s a _ h, advance_fallsThrough _⟩

theorem sameSize_of {sources : List Ty} {T : Ty} (h : ∀ X ∈ sources, X.size = T.size) (rest : Result) :
    sameSize sources T rest = rest := by
  unfold sameSize
  rw [if_pos]
  simpa using h

theorem sameSize_refused {sources : List Ty} {T : Ty} (h : ¬ ∀ X ∈ sources, X.size = T.size) (rest : Result) :
    sameSize sources T rest = .refused .vecMixedSize := by
  unfold sameSize
  rw [if_neg]
  simpa using h

theorem unless64_of {s : State} {types : List Ty} (h : ∀ X ∈ types, X.is64 = false) (rest : Result) :
    unless64 types s rest = rest := by
  unfold unless64
  rw [if_neg]
  simpa using h

theorem unless64_raises {s : State} {types : List Ty} (h : ∃ X ∈ types, X.is64 = true) (rest : Result) :
    unless64 types s rest = .next (s.raise 0x3) := by
  unfold unless64
  rw [if_pos]
  simpa using h

theorem supervisorOnly_of {s : State} (h : s.mode = .supervisor) (c : BitVec 32) (rest : Result) :
    supervisorOnly c s rest = rest := by rw [supervisorOnly, h]

theorem supervisorOnly_user {s : State} (h : s.mode = .user) (c : BitVec 32) (rest : Result) :
    supervisorOnly c s rest = .next (s.raise c) := by rw [supervisorOnly, h]

theorem bankAllowed_of {s : State} {bank : Mode} (h : BankOpen s.mode bank) (c : BitVec 32) (rest : Result) :
    bankAllowed c bank s rest = rest := by
  unfold bankAllowed
  rcases h with h | h
  · rw [h]
  · subst h; cases s.mode <;> rfl

theorem bankAllowed_user {s : State} (h : s.mode = .user) (c : BitVec 32) (rest : Result) :
    bankAllowed c .supervisor s rest = .next (s.raise c) := by unfold bankAllowed; rw [h]

theorem raise_exception {s : State} {i : Instr} {c : BitVec 32} (h : exec i s = .next (s.raise c)) :
    GivesException s i c := ⟨_, h, raise_raises s c⟩

theorem loadFrom_gives {s : State} {i : Instr} {T : Ty} {a : DReg} {ea : Addr} (hw : s.mem.wf = true)
    (he : exec i s = loadFrom T a ea s) : GivesLoad s i a ea T :=
  ⟨_, _, he, dload_loaded s hw _ ea T, advance_fallsThrough _⟩

theorem regRange_some {m : Mode} {first : Fin 64} {n : Nat} (h : InBank first n) :
    regRange m first n = some (bankRange m first n) := by
  unfold regRange InBank at *
  rw [if_pos h]; rfl

theorem regRange_none {m : Mode} {first : Fin 64} {n : Nat} (h : ¬ InBank first n) : regRange m first n = none := by
  unfold regRange InBank at *
  rw [if_neg h]

theorem bankRange_length (m : Mode) (first : Fin 64) (n : Nat) : (bankRange m first n).length = n := by
  simp [bankRange]

/-- Writing into a line changes the type of no DLAR. -/
theorem LineWritten.type_eq {s t : State} {k : PhysReg} {p : Nat} {bs : List Byte} (h : LineWritten s t k p bs) (j : PhysReg) :
    (t.dlar j).type = (s.dlar j).type := by
  by_cases hk : isZeroReg k = true
  · rw [h.others j (.inl hk)]
  · by_cases hj : s.HoldsLine (lineOf (s.dlar k).addr) j
    · exact (h.holders (by simpa using hk) j hj).type
    · rw [h.others j (.inr hj)]

/-- Writing into a line changes the address of no DLAR. -/
theorem LineWritten.addr_eq {s t : State} {k : PhysReg} {p : Nat} {bs : List Byte} (h : LineWritten s t k p bs) (j : PhysReg) :
    (t.dlar j).addr = (s.dlar j).addr := by
  by_cases hk : isZeroReg k = true
  · rw [h.others j (.inl hk)]
  · by_cases hj : s.HoldsLine (lineOf (s.dlar k).addr) j
    · exact (h.holders (by simpa using hk) j hj).addr
    · rw [h.others j (.inr hj)]

theorem LineWritten.typeOf_eq {s t : State} {k : PhysReg} {p : Nat} {bs : List Byte} (h : LineWritten s t k p bs) (n : DReg) :
    t.typeOf n = s.typeOf n := by
  unfold State.typeOf State.d State.reg
  rw [h.rest.mode]
  exact h.type_eq _

/-- A fold whose every step has an effect, under an invariant that every step keeps, has the effects in order. -/
theorem foldl_inOrder {α β : Type} {effect : State → State → β → Prop} {f : State → α → State} {g : α → β}
    (P : State → Prop) (hf : ∀ s x, P s → effect s (f s x) (g x) ∧ P (f s x)) :
    ∀ (l : List α) (s : State), P s → InOrder effect s (l.map g) (l.foldl f s)
  | [], s, _ => .done s
  | x :: l, s, h => .step (hf s x h).1 (foldl_inOrder P hf l _ (hf s x h).2)

end Sys2Proof.Machine
end

