-- ==== Sys2Proof/Laws/Steps.lean ====
section
/-! SUPPORT. Said once: what a step can be, and what an instruction can do. A property that the shared operations keep is kept
by every instruction (`exec_keeps`), with no instruction's meaning unfolded again. -/

namespace Sys2Proof.Machine

/-- An aligned element lies within one line (R9). -/
theorem offsetOf_align (T : Ty) (a : Addr) : offsetOf (align T a) + T.size ≤ 128 := by
  rw [offsetOf, align_toNat, alignNat]
  rcases size_cases T with h | h | h | h <;> rw [h] <;> omega

/-- What an instruction `i` may do from `s`, one field per shared operation: `P` holds while it works, `Q` of the state it
answers, `ok` of the registers it may write. -/
structure Keeps (i : Instr) (s : State) (P Q : State → Prop) (ok : PhysReg → Prop) : Prop where
  start : P s
  reg : ∀ u n, P u → ok (u.reg n)
  bank : ∀ bank n, BankOpen s.mode bank → ok (bankReg bank n)
  write : ∀ u k p bs, P u → ok k → P (u.writeBytes k p bs)
  type : ∀ u n T, P u → P (u.setType n T)
  load : ∀ u k ea T, P u → ok k → P (u.dload k ea T)
  store : ∀ u ea v, offsetOf ea + v.ty.size ≤ 128 → P u → P (u.dataWrite ea v)
  flush : ∀ u k, P u → ok k → P (u.dflush k)
  reload : ∀ u k, P u → ok k → P (u.dreload k)
  fill : ∀ u k a, P u → ok k → P (u.ifill k a)
  ireload : ∀ u k, P u → ok k → P (u.ireload k)
  ie : ∀ b, s.mode = .supervisor → P { s with ie := b }
  xct : ∀ a v, i = .cpyToXct a → s.mode = .supervisor → P { s with xct := v }
  swiarg0 : ∀ l, s.mode = .supervisor → P { s with swiarg0 := l }
  swiarg1 : ∀ l, s.mode = .supervisor → P { s with swiarg1 := l }
  swiarg2 : ∀ l, s.mode = .supervisor → P { s with swiarg2 := l }
  swiarg3 : ∀ l, s.mode = .supervisor → P { s with swiarg3 := l }
  input : ∀ a T ea n, field (encode i) 31 28 = 11 → P ((s.setType a T).ioRead ea n)
  output : ∀ a T ea bs, field (encode i) 31 28 = 11 → P ((s.setType a T).ioWrite ea bs)
  next : ∀ u, P u → Q u.advance
  jump : ∀ b n, Q (s.jump b n)
  raise : ∀ c : BitVec 32, c.toNat ≤ 0x15 → Q (s.raise c)
  swi : ∀ l0 l1 l2 l3, Q ({ s with swiarg0 := l0, swiarg1 := l1, swiarg2 := l2, swiarg3 := l3 }.raise 0x4)
  returns : ∀ a b, s.mode = .supervisor →
    ((i = .retiS a ∨ i = .retxS a) ∧ nonZeroScalar s a = true) ∨ ((i = .retiV a ∨ i = .retxV a) ∧ nonZeroVector s a = true) →
    Q ({ s with ie := b }.returnToUser)

namespace Keeps

variable {i : Instr} {s t : State} {P Q : State → Prop} {ok : PhysReg → Prop}

theorem fall (K : Keeps i s P Q ok) {u : State} (h : P u) (e : fallThrough u = .next t) : Q t := by
  cases e; exact K.next u h

theorem writeReg (K : Keeps i s P Q ok) {u : State} (h : P u) (n : DReg) (p : Nat) (bs : List Byte) :
    P (u.writeBytes (u.reg n) p bs) := K.write u _ p bs h (K.reg u n h)

theorem writeScalar (K : Keeps i s P Q ok) {u : State} (h : P u) (n : DReg) (v : TVal) : P (u.writeScalar n v) :=
  K.writeReg h n _ _

theorem writeVector (K : Keeps i s P Q ok) {u : State} (h : P u) (n : DReg) (l : Line) : P (u.writeVector n l) :=
  K.writeReg h n _ _

theorem unless64 (K : Keeps i s P Q ok) {types : List Ty} {rest : Result} (hr : rest = .next t → Q t)
    (e : Machine.unless64 types s rest = .next t) : Q t := by
  unfold Machine.unless64 at e
  split at e
  · cases e; exact K.raise _ (by decide)
  · exact hr e

theorem same {sources : List Ty} {T : Ty} {rest : Result} (hr : rest = .next t → Q t)
    (e : sameSize sources T rest = .next t) : Q t := by
  unfold sameSize at e
  split at e
  · exact hr e
  · cases e

theorem only (K : Keeps i s P Q ok) {c : BitVec 32} (hc : c.toNat ≤ 0x15) {rest : Result}
    (hr : s.mode = .supervisor → rest = .next t → Q t) (e : supervisorOnly c s rest = .next t) : Q t := by
  unfold supervisorOnly at e
  split at e
  · cases e; exact K.raise _ hc
  · exact hr (by assumption) e

theorem allowed (K : Keeps i s P Q ok) {c : BitVec 32} (hc : c.toNat ≤ 0x15) {bank : Mode} {rest : Result}
    (hr : BankOpen s.mode bank → rest = .next t → Q t) (e : bankAllowed c bank s rest = .next t) : Q t := by
  by_cases hb : BankOpen s.mode bank
  · rw [bankAllowed_of hb] at e
    exact hr hb e
  · unfold BankOpen at hb
    cases hm : s.mode with
    | supervisor => exact absurd (.inl hm) hb
    | user =>
      cases bank with
      | user => exact absurd (.inr rfl) hb
      | supervisor => rw [bankAllowed_user hm] at e; cases e; exact K.raise _ hc

theorem scalarOp (K : Keeps i s P Q ok) {op : TVal → TVal → TVal} {a c : DReg} {x : TVal}
    (e : Machine.scalarOp op a x c s = .next t) : Q t := K.fall (K.writeScalar K.start _ _) e

theorem vectorOp (K : Keeps i s P Q ok) {op : TVal → TVal → TVal} {a c : DReg} {x : Nat → TVal}
    (e : Machine.vectorOp op a x c s = .next t) : Q t := K.fall (K.writeVector K.start _ _) e

theorem reduceOp (K : Keeps i s P Q ok) {op : TVal → TVal → TVal} {a b : DReg}
    (e : Machine.reduceOp op a b s = .next t) : Q t := by
  unfold Machine.reduceOp at e
  split at e
  · exact K.fall (K.writeScalar K.start _ _) e
  · cases e

theorem loadFrom (K : Keeps i s P Q ok) {T : Ty} {a : DReg} {ea : Addr} (e : Machine.loadFrom T a ea s = .next t) : Q t :=
  K.fall (K.load _ _ _ _ K.start (K.reg _ _ K.start)) e

theorem storeTo (K : Keeps i s P Q ok) {T : Ty} {a b : DReg} {imm : Int} (e : Machine.storeTo T a b imm s = .next t) :
    Q t := by
  have ht := K.type s a T K.start
  have hr := K.reg _ a ht
  unfold Machine.storeTo at e
  dsimp only at e
  split at e
  · exact K.fall (K.store _ _ _ (offsetOf_align T _) ht) e
  · exact K.fall (K.write _ _ _ _ (K.load _ _ _ _ ht hr) hr) e

theorem dupOp (K : Keeps i s P Q ok) {T : Ty} {a b : DReg} (e : Machine.dupOp T a b s = .next t) : Q t :=
  K.fall (K.type _ _ _ (K.writeVector K.start _ _)) e

theorem fold (K : Keeps i s P Q ok) {α : Type} {f : State → α → State} {l : List α}
    (hf : ∀ u x, x ∈ l → P u → P (f u x)) : P (l.foldl f s) := by
  have : ∀ (m : List α) (u : State), (∀ x ∈ m, x ∈ l) → P u → P (m.foldl f u) := by
    intro m
    induction m with
    | nil => exact fun u _ h => h
    | cons x m ih =>
      exact fun u hm h => ih _ (fun y hy => hm y (List.mem_cons_of_mem _ hy)) (hf u x (hm x List.mem_cons_self) h)
  exact this l s (fun _ h => h) K.start

theorem range (K : Keeps i s P Q ok) {bank : Mode} (hb : BankOpen s.mode bank) {first : Fin 64} {n : Nat}
    {regs : List PhysReg} (h : regRange bank first n = some regs) : ∀ k ∈ regs, ok k := by
  unfold regRange at h
  split at h
  · cases h
    intro k hk
    obtain ⟨j, _, rfl⟩ := List.mem_map.1 hk
    exact K.bank _ _ hb
  · cases h

theorem fillIlars (K : Keeps i s P Q ok) {fills : List (PhysReg × Addr)} (hok : ∀ f ∈ fills, ok f.1)
    (e : Machine.fillIlars fills s = .next t) : Q t := by
  unfold Machine.fillIlars at e
  split at e
  · cases e
  · exact K.fall (K.fold fun u x hx h => K.fill u _ _ h (hok x hx)) e

theorem fetchFrom (K : Keeps i s P Q ok) {a : IReg} {ea : Addr} {j : Nat} (e : Machine.fetchFrom a ea j s = .next t) :
    Q t := by
  unfold Machine.fetchFrom at e
  split at e
  · cases e
  · next regs hr =>
    refine K.fillIlars (fun f hf => ?_) e
    refine K.range (bank := s.mode) ?_ hr _ (List.of_mem_zip (a := f.1) (b := f.2) hf).1
    unfold BankOpen; cases s.mode <;> simp

theorem gather (K : Keeps i s P Q ok) {bank : Mode} {g : PhysReg → BitVec 32} {a : DReg} {first : Fin 64} {n : Nat}
    (e : Machine.gather bank g a first n s = .next t) : Q t := by
  unfold Machine.gather at e
  refine K.allowed (by decide) (fun _ e => ?_) e
  split at e
  · exact K.fall (K.fold fun u x _ h => K.writeReg h _ _ _) e
  · cases e

theorem onRange (K : Keeps i s P Q ok) {c : BitVec 32} (hc : c.toNat ≤ 0x15) {bank : Mode} {op : State → PhysReg → State}
    (hop : ∀ u k, P u → ok k → P (op u k)) {first : Fin 64} {n : Nat} (e : Machine.onRange c bank op first n s = .next t) :
    Q t := by
  unfold Machine.onRange at e
  refine K.allowed hc (fun hb e => ?_) e
  split at e
  · next hr => exact K.fall (K.fold fun u x hx h => hop u x h (K.range hb hr x hx)) e
  · cases e

theorem loadMultiple (K : Keeps i s P Q ok) {bank : Mode} {a b c : DReg} {n : Nat}
    (e : Machine.loadMultiple bank a b c n s = .next t) : Q t := by
  unfold Machine.loadMultiple at e
  refine K.allowed (by decide) (fun hb e => ?_) e
  split at e
  · next regs addrs codes hr _ _ =>
    split at e
    · cases e
    · split at e
      · cases e
      · exact K.fall (K.fold fun u x hx h =>
          K.load u _ _ _ h (K.range hb hr _ (List.of_mem_zip (a := x.1) (b := x.2) hx).1)) e
  · cases e

theorem fetchMultiple (K : Keeps i s P Q ok) {bank : Mode} {a : IReg} {b : DReg} {n : Nat}
    (e : Machine.fetchMultiple bank a b n s = .next t) : Q t := by
  unfold Machine.fetchMultiple at e
  refine K.allowed (by decide) (fun hb e => ?_) e
  split at e
  · next hr _ => exact K.fillIlars (fun f hf => K.range hb hr _ (List.of_mem_zip (a := f.1) (b := f.2) hf).1) e
  · cases e

theorem inScalar (K : Keeps i s P Q ok) (h : field (encode i) 31 28 = 11) {T : Ty} {a b c : DReg}
    (e : Machine.inScalar T a b c s = .next t) : Q t := K.fall (K.writeScalar (K.input _ _ _ _ h) _ _) e

theorem inVector (K : Keeps i s P Q ok) (h : field (encode i) 31 28 = 11) {T : Ty} {a b c : DReg}
    (e : Machine.inVector T a b c s = .next t) : Q t := K.fall (K.writeReg (K.input a T _ _ h) a _ _) e

theorem outScalar (K : Keeps i s P Q ok) (h : field (encode i) 31 28 = 11) {T : Ty} {a b c : DReg}
    (e : Machine.outScalar T a b c s = .next t) : Q t := K.fall (K.output _ _ _ _ h) e

theorem outVector (K : Keeps i s P Q ok) (h : field (encode i) 31 28 = 11) {T : Ty} {a b c : DReg}
    (e : Machine.outVector T a b c s = .next t) : Q t := K.fall (K.output _ _ _ _ h) e

theorem jumpOr (K : Keeps i s P Q ok) {c : Bool} {b : IReg} {n : Nat}
    (e : (if c then .next (s.jump b n) else fallThrough s : Result) = .next t) : Q t := by
  split at e
  · cases e; exact K.jump _ _
  · exact K.fall K.start e

theorem orJump (K : Keeps i s P Q ok) {c : Bool} {b : IReg} {n : Nat}
    (e : (if c then fallThrough s else .next (s.jump b n) : Result) = .next t) : Q t := by
  split at e
  · exact K.fall K.start e
  · cases e; exact K.jump _ _

end Keeps

/-- The group of a Group 11 word. -/
theorem group_fmtABC11 (a b c : Fin 64) (low : Nat) (h : low < 1024) : field (fmtABC 11 a b c low) 31 28 = 11 := by
  have ha := a.isLt
  have hb := b.isLt
  have hc := c.isLt
  simp only [field, fmtABC, pack, BitVec.toNat_ofNat]
  omega

/-- What every instruction can do, in one case split: a property kept by the shared operations is kept. -/
theorem exec_keeps {i : Instr} {s t : State} {P Q : State → Prop} {ok : PhysReg → Prop} (K : Keeps i s P Q ok)
    (e : exec i s = .next t) : Q t := by
  cases i with
  | addS _ _ _ => exact K.scalarOp e
  | addV _ _ _ => exact Keeps.same K.vectorOp e
  | subS _ _ _ => exact K.scalarOp e
  | subV _ _ _ => exact Keeps.same K.vectorOp e
  | sltS _ _ _ => exact K.scalarOp e
  | sltV _ _ _ => exact Keeps.same K.vectorOp e
  | mulS _ _ _ => exact K.unless64 K.scalarOp e
  | mulV _ _ _ => exact K.unless64 (Keeps.same K.vectorOp) e
  | andS _ _ _ => exact K.scalarOp e
  | andV _ _ _ => exact Keeps.same K.vectorOp e
  | orS _ _ _ => exact K.scalarOp e
  | orV _ _ _ => exact Keeps.same K.vectorOp e
  | xorS _ _ _ => exact K.scalarOp e
  | xorV _ _ _ => exact Keeps.same K.vectorOp e
  | shlS _ _ _ => exact K.unless64 K.scalarOp e
  | shlV _ _ _ => exact K.unless64 (Keeps.same K.vectorOp) e
  | shrS _ _ _ => exact K.unless64 K.scalarOp e
  | shrV _ _ _ => exact K.unless64 (Keeps.same K.vectorOp) e
  | rolS _ _ _ => exact K.unless64 K.scalarOp e
  | rolV _ _ _ => exact K.unless64 (Keeps.same K.vectorOp) e
  | rorS _ _ _ => exact K.unless64 K.scalarOp e
  | rorV _ _ _ => exact K.unless64 (Keeps.same K.vectorOp) e
  | addAddrS _ _ _ => exact K.unless64 K.scalarOp e
  | addAddrV _ _ _ => exact K.unless64 (Keeps.same K.vectorOp) e
  | shlAddrS _ _ _ => exact K.unless64 K.scalarOp e
  | shlAddrV _ _ _ => exact K.unless64 (Keeps.same K.vectorOp) e
  | addIaddrS _ _ _ => exact K.scalarOp e
  | addIaddrV _ _ _ => exact Keeps.same K.vectorOp e
  | divS _ _ _ _ =>
    refine K.unless64 (fun e => ?_) e
    split at e
    · cases e; exact K.raise _ (by decide)
    · exact K.fall (K.writeScalar (K.writeScalar K.start _ _) _ _) e
  | divV _ _ _ _ =>
    refine K.unless64 (Keeps.same fun e => ?_) e
    dsimp only at e
    split at e
    · cases e; exact K.raise _ (by decide)
    · exact K.fall (K.writeVector (K.writeVector K.start _ _) _ _) e
  | addR _ _ => exact K.reduceOp e
  | mulR _ _ => exact K.unless64 K.reduceOp e
  | maxR _ _ => exact K.reduceOp e
  | minR _ _ => exact K.reduceOp e
  | andR _ _ => exact K.reduceOp e
  | orR _ _ => exact K.reduceOp e
  | xorR _ _ => exact K.reduceOp e
  | ldu8i _ _ _ => exact K.loadFrom e
  | lds8i _ _ _ => exact K.loadFrom e
  | ldu16i _ _ _ => exact K.loadFrom e
  | lds16i _ _ _ => exact K.loadFrom e
  | ldu32i _ _ _ => exact K.loadFrom e
  | lds32i _ _ _ => exact K.loadFrom e
  | ldu64i _ _ _ => exact K.loadFrom e
  | lds64i _ _ _ => exact K.loadFrom e
  | ldu8iAddr _ _ _ => exact K.loadFrom e
  | lds8iAddr _ _ _ => exact K.loadFrom e
  | ldu16iAddr _ _ _ => exact K.loadFrom e
  | lds16iAddr _ _ _ => exact K.loadFrom e
  | ldu32iAddr _ _ _ => exact K.loadFrom e
  | lds32iAddr _ _ _ => exact K.loadFrom e
  | ldu64iAddr _ _ _ => exact K.loadFrom e
  | lds64iAddr _ _ _ => exact K.loadFrom e
  | ldu8 _ _ _ => exact K.loadFrom e
  | lds8 _ _ _ => exact K.loadFrom e
  | ldu16 _ _ _ => exact K.loadFrom e
  | lds16 _ _ _ => exact K.loadFrom e
  | ldu32 _ _ _ => exact K.loadFrom e
  | lds32 _ _ _ => exact K.loadFrom e
  | ldu64 _ _ _ => exact K.loadFrom e
  | lds64 _ _ _ => exact K.loadFrom e
  | stu8i _ _ _ => exact K.storeTo e
  | sts8i _ _ _ => exact K.storeTo e
  | stu16i _ _ _ => exact K.storeTo e
  | sts16i _ _ _ => exact K.storeTo e
  | stu32i _ _ _ => exact K.storeTo e
  | sts32i _ _ _ => exact K.storeTo e
  | stu64i _ _ _ => exact K.storeTo e
  | sts64i _ _ _ => exact K.storeTo e
  | dpu8 _ _ => exact K.dupOp e
  | dps8 _ _ => exact K.dupOp e
  | dpu16 _ _ => exact K.dupOp e
  | dps16 _ _ => exact K.dupOp e
  | dpu32 _ _ => exact K.dupOp e
  | dps32 _ _ => exact K.dupOp e
  | dpu64 _ _ => exact K.dupOp e
  | dps64 _ _ => exact K.dupOp e
  | fetchReg _ _ _ _ => exact K.fetchFrom e
  | fetchImm _ _ _ _ => exact K.fetchFrom e
  | selS _ _ _ _ => cases e; exact K.jump _ _
  | selV _ _ _ _ => cases e; exact K.jump _ _
  | jzS _ _ _ => exact K.orJump e
  | jzV _ _ _ => exact K.orJump e
  | jnzS _ _ _ => exact K.jumpOr e
  | jnzV _ _ _ => exact K.jumpOr e
  | retiS a =>
    refine K.only (by decide) (fun hm e => ?_) e
    unfold returnIf at e
    split at e
    · next h => cases e; exact K.returns a true hm (.inl ⟨.inl rfl, h⟩)
    · exact K.fall K.start e
  | retiV a =>
    refine K.only (by decide) (fun hm e => ?_) e
    unfold returnIf at e
    split at e
    · next h => cases e; exact K.returns a true hm (.inr ⟨.inl rfl, h⟩)
    · exact K.fall K.start e
  | retxS a =>
    refine K.only (by decide) (fun hm e => ?_) e
    unfold returnIf at e
    split at e
    · next h => cases e; exact K.returns a s.ie hm (.inl ⟨.inr rfl, h⟩)
    · exact K.fall K.start e
  | retxV a =>
    refine K.only (by decide) (fun hm e => ?_) e
    unfold returnIf at e
    split at e
    · next h => cases e; exact K.returns a s.ie hm (.inr ⟨.inr rfl, h⟩)
    · exact K.fall K.start e
  | getaddrsU _ _ _ => exact K.gather e
  | getaddrsS _ _ _ => exact K.gather e
  | getaddrsIU _ _ _ => exact K.gather e
  | getaddrsIS _ _ _ => exact K.gather e
  | gettypesU _ _ _ => exact K.gather e
  | gettypesS _ _ _ => exact K.gather e
  | ldmU _ _ _ _ => exact K.loadMultiple e
  | ldmS _ _ _ _ => exact K.loadMultiple e
  | fetchmU _ _ _ => exact K.fetchMultiple e
  | fetchmS _ _ _ => exact K.fetchMultiple e
  | reloadU _ _ => exact K.onRange (by decide) K.reload e
  | reloadS _ _ => exact K.onRange (by decide) K.reload e
  | flushU _ _ => exact K.onRange (by decide) K.flush e
  | flushS _ _ => exact K.onRange (by decide) K.flush e
  | reloadIU _ _ => exact K.onRange (by decide) K.ireload e
  | reloadIS _ _ => exact K.onRange (by decide) K.ireload e
  | cpyFromIe _ => exact K.only (by decide) (fun _ e => K.fall (K.writeScalar K.start _ _) e) e
  | cpyToIe _ => exact K.only (by decide) (fun hm e => K.fall (K.ie _ hm) e) e
  | cpyFromXct _ => exact K.only (by decide) (fun _ e => K.fall (K.writeScalar K.start _ _) e) e
  | cpyToXct _ => exact K.only (by decide) (fun hm e => K.fall (K.xct _ _ rfl hm) e) e
  | cpyFromSwiarg0 _ => exact K.only (by decide) (fun _ e => K.fall (K.writeVector K.start _ _) e) e
  | cpyToSwiarg0 _ => exact K.only (by decide) (fun hm e => K.fall (K.swiarg0 _ hm) e) e
  | cpyFromSwiarg1 _ => exact K.only (by decide) (fun _ e => K.fall (K.writeVector K.start _ _) e) e
  | cpyToSwiarg1 _ => exact K.only (by decide) (fun hm e => K.fall (K.swiarg1 _ hm) e) e
  | cpyFromSwiarg2 _ => exact K.only (by decide) (fun _ e => K.fall (K.writeVector K.start _ _) e) e
  | cpyToSwiarg2 _ => exact K.only (by decide) (fun hm e => K.fall (K.swiarg2 _ hm) e) e
  | cpyFromSwiarg3 _ => exact K.only (by decide) (fun _ e => K.fall (K.writeVector K.start _ _) e) e
  | cpyToSwiarg3 _ => exact K.only (by decide) (fun hm e => K.fall (K.swiarg3 _ hm) e) e
  | swi _ _ _ _ => cases e; exact K.swi _ _ _ _
  | inu8S _ _ _ => exact K.inScalar (group_fmtABC11 _ _ _ _ (by decide)) e
  | inu8V _ _ _ => exact K.inVector (group_fmtABC11 _ _ _ _ (by decide)) e
  | ins8S _ _ _ => exact K.inScalar (group_fmtABC11 _ _ _ _ (by decide)) e
  | ins8V _ _ _ => exact K.inVector (group_fmtABC11 _ _ _ _ (by decide)) e
  | inu16S _ _ _ => exact K.inScalar (group_fmtABC11 _ _ _ _ (by decide)) e
  | inu16V _ _ _ => exact K.inVector (group_fmtABC11 _ _ _ _ (by decide)) e
  | ins16S _ _ _ => exact K.inScalar (group_fmtABC11 _ _ _ _ (by decide)) e
  | ins16V _ _ _ => exact K.inVector (group_fmtABC11 _ _ _ _ (by decide)) e
  | inu32S _ _ _ => exact K.inScalar (group_fmtABC11 _ _ _ _ (by decide)) e
  | inu32V _ _ _ => exact K.inVector (group_fmtABC11 _ _ _ _ (by decide)) e
  | ins32S _ _ _ => exact K.inScalar (group_fmtABC11 _ _ _ _ (by decide)) e
  | ins32V _ _ _ => exact K.inVector (group_fmtABC11 _ _ _ _ (by decide)) e
  | inu64S _ _ _ => exact K.inScalar (group_fmtABC11 _ _ _ _ (by decide)) e
  | inu64V _ _ _ => exact K.inVector (group_fmtABC11 _ _ _ _ (by decide)) e
  | ins64S _ _ _ => exact K.inScalar (group_fmtABC11 _ _ _ _ (by decide)) e
  | ins64V _ _ _ => exact K.inVector (group_fmtABC11 _ _ _ _ (by decide)) e
  | outu8S _ _ _ => exact K.outScalar (group_fmtABC11 _ _ _ _ (by decide)) e
  | outu8V _ _ _ => exact K.outVector (group_fmtABC11 _ _ _ _ (by decide)) e
  | outs8S _ _ _ => exact K.outScalar (group_fmtABC11 _ _ _ _ (by decide)) e
  | outs8V _ _ _ => exact K.outVector (group_fmtABC11 _ _ _ _ (by decide)) e
  | outu16S _ _ _ => exact K.outScalar (group_fmtABC11 _ _ _ _ (by decide)) e
  | outu16V _ _ _ => exact K.outVector (group_fmtABC11 _ _ _ _ (by decide)) e
  | outs16S _ _ _ => exact K.outScalar (group_fmtABC11 _ _ _ _ (by decide)) e
  | outs16V _ _ _ => exact K.outVector (group_fmtABC11 _ _ _ _ (by decide)) e
  | outu32S _ _ _ => exact K.outScalar (group_fmtABC11 _ _ _ _ (by decide)) e
  | outu32V _ _ _ => exact K.outVector (group_fmtABC11 _ _ _ _ (by decide)) e
  | outs32S _ _ _ => exact K.outScalar (group_fmtABC11 _ _ _ _ (by decide)) e
  | outs32V _ _ _ => exact K.outVector (group_fmtABC11 _ _ _ _ (by decide)) e
  | outu64S _ _ _ => exact K.outScalar (group_fmtABC11 _ _ _ _ (by decide)) e
  | outu64V _ _ _ => exact K.outVector (group_fmtABC11 _ _ _ _ (by decide)) e
  | outs64S _ _ _ => exact K.outScalar (group_fmtABC11 _ _ _ _ (by decide)) e
  | outs64V _ _ _ => exact K.outVector (group_fmtABC11 _ _ _ _ (by decide)) e

/-! ### What a step can be -/

theorem notDue_iff (s : State) : s.interruptDue = false ↔ (s.ie = false ∨ s.irq = false) := by
  unfold State.interruptDue
  cases s.ie <;> simp

/-- The state in which a step that takes no interrupt reads its instruction: the line of the `ipc` was there, or is another
ILAR's (R36 step 2). -/
def Fetching (s u : State) : Prop :=
  (s.iv s.mode = true ∧ u = s.tick) ∨
  (s.iv s.mode = false ∧ ∃ l, s.ilookup (lineOf s.pc) (ipcOf s.mode) = some l ∧ u = s.tick.withLine l)

/-- A step that answers a next state takes an interrupt, misses a line in user mode, runs an instruction, or raises exception
0x2 for an undefined word. -/
theorem step_cases {s t : State} (h : step s = .next t) :
    (s.interruptDue = true ∧ t = s.tick.enter 0x0) ∨
    (s.interruptDue = false ∧ s.mode = .user ∧ t = s.tick.enter 0x15) ∨
    (s.interruptDue = false ∧ ∃ u, Fetching s u ∧
      ((∃ i, u.decoded = .ok i ∧ exec i u = .next t) ∨ (u.decoded = .undefined ∧ t = u.raise 0x2))) := by
  have run : ∀ u, runDecoded u = .next t →
      (∃ i, u.decoded = .ok i ∧ exec i u = .next t) ∨ (u.decoded = .undefined ∧ t = u.raise 0x2) := by
    intro u hu
    unfold runDecoded at hu
    split at hu
    · exact .inl ⟨_, by assumption, hu⟩
    · cases hu; exact .inr ⟨by assumption, rfl⟩
    · cases hu
  have hiv : s.tick.iv s.tick.mode = s.iv s.mode := by
    have : s.tick.iv s.mode = s.iv s.mode := by cases s.mode <;> rfl
    exact this
  unfold step stepOnce at h
  split at h
  · cases h; exact .inl ⟨by assumption, rfl⟩
  · next hd =>
    have hd : s.interruptDue = false := by simpa using hd
    unfold withIpcLine at h
    rw [hiv] at h
    split at h
    · next hv => exact .inr (.inr ⟨hd, _, .inl ⟨hv, rfl⟩, run _ h⟩)
    · next hv =>
      have hv : s.iv s.mode = false := by simpa using hv
      split at h
      · next l hl => exact .inr (.inr ⟨hd, _, .inr ⟨hv, l, hl, rfl⟩, run _ h⟩)
      · split at h
        · next hm => cases h; exact .inr (.inl ⟨hd, hm, rfl⟩)
        · cases h

/-- The model's bookkeeping plays no part in what is decoded. -/
theorem decoded_withLine_tick (s : State) (l : Line) : (s.tick.withLine l).decoded = (s.withLine l).decoded := by
  unfold State.withLine State.setIlar
  have : s.tick.mode = s.mode := rfl
  rw [this]
  cases s.mode <;> rfl

/-- A step that decodes an instruction runs it, in the sense of Safety.lean. -/
theorem Fetching.runs {s u : State} {i : Instr} (h : Fetching s u) (hd : s.interruptDue = false)
    (hi : u.decoded = .ok i) : Runs s i := by
  refine ⟨hd, ?_⟩
  rcases h with ⟨hv, rfl⟩ | ⟨hv, l, hl, rfl⟩
  · exact .inl ⟨hv, hi⟩
  · exact .inr ⟨hv, l, _, hl, rfl, by rw [← decoded_withLine_tick]; exact hi⟩

/-- A property that the model's bookkeeping, finding a line, entering supervisor mode, raising an exception and every
instruction keep is kept by every step. -/
theorem step_keeps {Inv : State → Prop} (tick : ∀ s, Inv s → Inv s.tick) (line : ∀ s l, Inv s → Inv (s.withLine l))
    (enter : ∀ s c, Inv s → Inv (s.enter c)) (raise : ∀ s c, Inv s → Inv (s.raise c))
    (exec : ∀ i s t, Inv s → exec i s = .next t → Inv t) {s t : State} (hs : Inv s) (h : step s = .next t) : Inv t := by
  rcases step_cases h with ⟨_, rfl⟩ | ⟨_, _, rfl⟩ | ⟨_, u, hu, hr⟩
  · exact enter _ _ (tick _ hs)
  · exact enter _ _ (tick _ hs)
  · have hui : Inv u := by
      rcases hu with ⟨_, rfl⟩ | ⟨_, l, _, rfl⟩
      · exact tick _ hs
      · exact line _ _ (tick _ hs)
    rcases hr with ⟨i, _, he⟩ | ⟨_, rfl⟩
    · exact exec _ _ _ hui he
    · exact raise _ _ hui

/-! ### What sequencing and exceptions leave alone -/

theorem advance_data (s : State) : s.advance.dlars = s.dlars ∧ s.advance.mem = s.mem := by
  unfold State.advance
  dsimp only
  split <;> simp

theorem enter_data (s : State) (c : BitVec 32) : (s.enter c).dlars = s.dlars ∧ (s.enter c).mem = s.mem := by
  simp [State.enter]

theorem raise_data (s : State) (c : BitVec 32) : (s.raise c).dlars = s.dlars ∧ (s.raise c).mem = s.mem := by
  unfold State.raise
  split <;> simp [enter_data, advance_data]

theorem raise_mode (s : State) (c : BitVec 32) : (s.raise c).mode = .supervisor := by
  unfold State.raise
  split <;> exact (enter_entered _ c).rest.mode

theorem sameRest_dload (s : State) (k : PhysReg) (ea : Addr) (T : Ty) : SameRest s (s.dload k ea T) := by
  unfold State.dload State.release
  dsimp only
  split
  · exact .refl _
  · split
    · exact sameRest_setDlar _ _ _
    · split
      · exact (sameRest_mem _ _).trans (sameRest_setDlar _ _ _)
      · exact sameRest_setDlar _ _ _

theorem sameRest_dataWrite (s : State) (ea : Addr) (v : TVal) : SameRest s (s.dataWrite ea v) := by
  unfold State.dataWrite
  split
  · exact sameRest_mapHolders _ _ _
  · exact sameRest_mem _ _

theorem sameRest_dflush (s : State) (k : PhysReg) : SameRest s (s.dflush k) := by
  unfold State.dflush
  split
  · exact .refl _
  · exact (sameRest_mem _ _).trans (sameRest_mapHolders _ _ _)

end Sys2Proof.Machine
end

