-- ==== Sys2Proof/Tests/Slice0.lean ====
section
/-! SUPPORT. Tests. The words of the decoding tests and the expected results of the step tests are the spec's: its rules'
examples and the vectors of spec/95_test_vectors.md, whose row numbers are given. -/

namespace Sys2Proof.Tests

set_option Elab.async false

open Sys2Proof.Machine

/-! ### Well-formedness: each range check refuses a term just outside its range and takes the ends of the range -/

theorem test_wf_simm12 : (Instr.ldu8i 1 2 2048).wellFormed = false ∧ (Instr.stu8i 1 2 (-2049)).wellFormed = false ∧
    (Instr.ldu8iAddr 1 2 2047).wellFormed = true ∧ (Instr.ldu8i 1 2 (-2048)).wellFormed = true := by decide
theorem test_wf_isimm11 : (Instr.fetchImm 1 2 1024 0).wellFormed = false ∧
    (Instr.fetchImm 1 2 (-1025) 0).wellFormed = false ∧ (Instr.fetchImm 1 2 1023 0).wellFormed = true ∧
    (Instr.fetchImm 1 2 (-1024) 0).wellFormed = true := by decide
theorem test_wf_jimm4 : (Instr.fetchReg 1 2 3 16).wellFormed = false ∧ (Instr.fetchImm 1 2 0 16).wellFormed = false ∧
    (Instr.fetchReg 1 2 3 15).wellFormed = true := by decide
theorem test_wf_index5 : (Instr.selS 1 2 32 0).wellFormed = false ∧ (Instr.selV 1 2 0 32).wellFormed = false ∧
    (Instr.jzS 1 2 32).wellFormed = false ∧ (Instr.jnzV 1 2 31).wellFormed = true := by decide
theorem test_wf_imm6 : (Instr.flushS 1 64).wellFormed = false ∧ (Instr.ldmU 1 2 3 64).wellFormed = false ∧
    (Instr.reloadIU 1 63).wellFormed = true := by decide

/-! ### Decoding: every constructor, from a word the spec prints (or, for `add.v dA, iB.addr, dC`, `sel.v` and `reti.v`, the
printed `.s` word with its `v` bit set) -/

def codes (l : List (Word × Instr)) : Bool := l.all fun x => decide (decode x.1 = .ok x.2) && decide (encode x.2 = x.1)

theorem test_decode_group0 : codes [
    (0x00420C00, .addS 1 2 3),
    (0x00420C10, .addV 1 2 3),
    (0x00420C01, .subS 1 2 3),
    (0x00420C11, .subV 1 2 3),
    (0x00420C02, .sltS 1 2 3),
    (0x00420C12, .sltV 1 2 3),
    (0x00420C03, .mulS 1 2 3),
    (0x00420C13, .mulV 1 2 3),
    (0x00420C04, .andS 1 2 3),
    (0x00420C14, .andV 1 2 3),
    (0x00420C05, .orS 1 2 3),
    (0x00420C15, .orV 1 2 3),
    (0x00420C06, .xorS 1 2 3),
    (0x00420C16, .xorV 1 2 3),
    (0x00420C07, .shlS 1 2 3),
    (0x00420C17, .shlV 1 2 3),
    (0x00420C08, .shrS 1 2 3),
    (0x00420C18, .shrV 1 2 3),
    (0x00420C09, .rolS 1 2 3),
    (0x00420C19, .rolV 1 2 3),
    (0x00420C0A, .rorS 1 2 3),
    (0x00420C1A, .rorV 1 2 3),
    (0x00420C0B, .addAddrS 1 2 3),
    (0x00420C1B, .addAddrV 1 2 3),
    (0x00420C0C, .shlAddrS 1 2 3),
    (0x00420C1C, .shlAddrV 1 2 3),
    (0x00450C0D, .addIaddrS 1 5 3),
    (0x00450C1D, .addIaddrV 1 5 3),
    (0x00420C4E, .divS 1 2 3 4),
    (0x00420C4F, .divV 1 2 3 4)] = true := by decide +kernel
theorem test_decode_group1 : codes [
    (0x10420000, .addR 1 2),
    (0x10420001, .mulR 1 2),
    (0x10420002, .maxR 1 2),
    (0x10420003, .minR 1 2),
    (0x10420004, .andR 1 2),
    (0x10420005, .orR 1 2),
    (0x10420006, .xorR 1 2)] = true := by decide +kernel
theorem test_decode_group2 : codes [
    (0x20420100, .ldu8i 1 2 16),
    (0x20420101, .lds8i 1 2 16),
    (0x20420102, .ldu16i 1 2 16),
    (0x20420103, .lds16i 1 2 16),
    (0x20420104, .ldu32i 1 2 16),
    (0x20420105, .lds32i 1 2 16),
    (0x20420106, .ldu64i 1 2 16),
    (0x20420107, .lds64i 1 2 16)] = true := by decide +kernel
theorem test_decode_group3 : codes [
    (0x3042FFC0, .ldu8iAddr 1 2 (-4)),
    (0x3042FFC1, .lds8iAddr 1 2 (-4)),
    (0x3042FFC2, .ldu16iAddr 1 2 (-4)),
    (0x3042FFC3, .lds16iAddr 1 2 (-4)),
    (0x3042FFC4, .ldu32iAddr 1 2 (-4)),
    (0x3042FFC5, .lds32iAddr 1 2 (-4)),
    (0x3042FFC6, .ldu64iAddr 1 2 (-4)),
    (0x3042FFC7, .lds64iAddr 1 2 (-4))] = true := by decide +kernel
theorem test_decode_group4 : codes [
    (0x40420C00, .ldu8 1 2 3),
    (0x40420C01, .lds8 1 2 3),
    (0x40420C02, .ldu16 1 2 3),
    (0x40420C03, .lds16 1 2 3),
    (0x40420C04, .ldu32 1 2 3),
    (0x40420C05, .lds32 1 2 3),
    (0x40420C06, .ldu64 1 2 3),
    (0x40420C07, .lds64 1 2 3)] = true := by decide +kernel
theorem test_decode_group5 : codes [
    (0x50420080, .stu8i 1 2 8),
    (0x50420081, .sts8i 1 2 8),
    (0x50420082, .stu16i 1 2 8),
    (0x50420083, .sts16i 1 2 8),
    (0x50420084, .stu32i 1 2 8),
    (0x50420085, .sts32i 1 2 8),
    (0x50420086, .stu64i 1 2 8),
    (0x50420087, .sts64i 1 2 8)] = true := by decide +kernel
theorem test_decode_group6 : codes [
    (0x60420000, .dpu8 1 2),
    (0x60420001, .dps8 1 2),
    (0x60420002, .dpu16 1 2),
    (0x60420003, .dps16 1 2),
    (0x60420004, .dpu32 1 2),
    (0x60420005, .dps32 1 2),
    (0x60420006, .dpu64 1 2),
    (0x60420007, .dps64 1 2)] = true := by decide +kernel
theorem test_decode_group7 : codes [
    (0x70400806, .fetchReg 1 0 2 3),
    (0x707F0401, .fetchImm 1 63 32 0)] = true := by decide +kernel
theorem test_decode_group8 : codes [
    (0x80420CE0, .selS 1 2 3 7),
    (0x80420CF0, .selV 1 2 3 7),
    (0x807F2001, .jzS 1 63 8),
    (0x80420011, .jzV 1 2 0),
    (0x807F2002, .jnzS 1 63 8),
    (0x80420012, .jnzV 1 2 0),
    (0x80400003, .retiS 1),
    (0x80400013, .retiV 1),
    (0x80400004, .retxS 1),
    (0x80400014, .retxV 1)] = true := by decide +kernel
theorem test_decode_group9 : codes [
    (0x90420040, .getaddrsU 1 2 4),
    (0x90420048, .getaddrsS 1 2 4),
    (0x90420041, .getaddrsIU 1 2 4),
    (0x90420049, .getaddrsIS 1 2 4),
    (0x90420042, .gettypesU 1 2 4),
    (0x9042004A, .gettypesS 1 2 4),
    (0x90420C43, .ldmU 1 2 3 4),
    (0x90420C4B, .ldmS 1 2 3 4),
    (0x90420044, .fetchmU 1 2 4),
    (0x9042004C, .fetchmS 1 2 4),
    (0x90400045, .reloadU 1 4),
    (0x9040004D, .reloadS 1 4),
    (0x90400046, .flushU 1 4),
    (0x9040004E, .flushS 1 4),
    (0x90400047, .reloadIU 1 4),
    (0x9040004F, .reloadIS 1 4)] = true := by decide +kernel
theorem test_decode_group10 : codes [
    (0xA0400000, .cpyFromIe 1),
    (0xA0400001, .cpyToIe 1),
    (0xA0400002, .cpyFromXct 1),
    (0xA0400003, .cpyToXct 1),
    (0xA0400004, .cpyFromSwiarg0 1),
    (0xA0400005, .cpyToSwiarg0 1),
    (0xA0400006, .cpyFromSwiarg1 1),
    (0xA0400007, .cpyToSwiarg1 1),
    (0xA0400008, .cpyFromSwiarg2 1),
    (0xA0400009, .cpyToSwiarg2 1),
    (0xA040000A, .cpyFromSwiarg3 1),
    (0xA040000B, .cpyToSwiarg3 1),
    (0xA0420C4C, .swi 1 2 3 4)] = true := by decide +kernel
theorem test_decode_group11 : codes [
    (0xB0420C00, .inu8S 1 2 3),
    (0xB0420C20, .inu8V 1 2 3),
    (0xB0420C01, .ins8S 1 2 3),
    (0xB0420C21, .ins8V 1 2 3),
    (0xB0420C02, .inu16S 1 2 3),
    (0xB0420C22, .inu16V 1 2 3),
    (0xB0420C03, .ins16S 1 2 3),
    (0xB0420C23, .ins16V 1 2 3),
    (0xB0420C04, .inu32S 1 2 3),
    (0xB0420C24, .inu32V 1 2 3),
    (0xB0420C05, .ins32S 1 2 3),
    (0xB0420C25, .ins32V 1 2 3),
    (0xB0420C06, .inu64S 1 2 3),
    (0xB0420C26, .inu64V 1 2 3),
    (0xB0420C07, .ins64S 1 2 3),
    (0xB0420C27, .ins64V 1 2 3),
    (0xB0420C10, .outu8S 1 2 3),
    (0xB0420C30, .outu8V 1 2 3),
    (0xB0420C11, .outs8S 1 2 3),
    (0xB0420C31, .outs8V 1 2 3),
    (0xB0420C12, .outu16S 1 2 3),
    (0xB0420C32, .outu16V 1 2 3),
    (0xB0420C13, .outs16S 1 2 3),
    (0xB0420C33, .outs16V 1 2 3),
    (0xB0420C14, .outu32S 1 2 3),
    (0xB0420C34, .outu32V 1 2 3),
    (0xB0420C15, .outs32S 1 2 3),
    (0xB0420C35, .outs32V 1 2 3),
    (0xB0420C16, .outu64S 1 2 3),
    (0xB0420C36, .outu64V 1 2 3),
    (0xB0420C17, .outs64S 1 2 3),
    (0xB0420C37, .outs64V 1 2 3)] = true := by decide +kernel

theorem test_decode_undefined : [0xC0123456, 0xF0123456, 0x80400005, 0xA040000D, 0xB0420C08, 0xB0420C18, 0x10420007,
    0x20420008, 0x60420008].all (fun w => decide (decode w = .undefined)) = true := by decide +kernel
theorem test_decode_literal_zero : [0x00420C20, 0xB0420C40, 0x807FA001].all
    (fun w => decide (decode w = .rejected .literalZero)) = true := by decide +kernel
theorem test_decode_unused_field : [0x807F2021, 0xA0420000, 0x10420400].all
    (fun w => decide (decode w = .rejected .unusedField)) = true := by decide +kernel
theorem test_decode_truncated : decodeBytes .little [0, 0, 0] = .rejected .truncated := by decide +kernel
/-- The big-endian reading of the same word (R60). -/
theorem test_decode_big : decodeBytes .big [0x00, 0x42, 0x0C, 0x01] = .ok (.subS 1 2 3) := by decide +kernel
theorem test_decodeTableWord : decodeTableWord 32 0x00420C01 = some (.subS 1 2 3) ∧
    decodeTableWord 32 0xC0000000 = none := by decide +kernel

/-! ### Small states -/

/-- `s` with a DLAR set up, clean. -/
def reg (s : State) (k : PhysReg) (addr : Addr) (T : Ty) (l : Line) : State :=
  s.setDlar k { launchDlar with addr := addr, type := T, data := l }

/-- A line of zeros but for one value of `n` bytes at byte `p`, little-endian. -/
def one (p n v : Nat) : Line := patch zeroLine p (natToBytes .little n v)

/-- The line whose byte `j` is `b + j`. -/
def ramp (b : Byte) : Line := tabulate fun j => b + BitVec.ofNat 8 j.val

/-- The line of one byte repeated. -/
def fill (b : Byte) : Line := Vector.replicate 128 b

/-- The vectors' setup of Group 0: supervisor `d1` to `d3` at 0x1000, 0x1080, 0x1100, each scalar at offset 0. -/
def ops (T1 : Ty) (T2 : Ty) (v2 : Nat) (T3 : Ty) (v3 : Nat) : State :=
  reg (reg (reg State.reset 65 0x1000 T1 zeroLine) 66 0x1080 T2 (one 0 T2.size v2)) 67 0x1100 T3 (one 0 T3.size v3)

/-- The same with whole lines. -/
def vecs (T1 T2 : Ty) (l2 : Line) (T3 : Ty) (l3 : Line) : State :=
  reg (reg (reg State.reset 65 0x1000 T1 zeroLine) 66 0x1080 T2 l2) 67 0x1100 T3 l3

/-- The instruction goes on to a state with a property. -/
def goes (r : Result) (p : State → Bool) : Bool :=
  match r with
  | .next t => p t
  | .fault _ => false
  | .refused _ => false

/-- The instruction is refused for this reason. -/
def refusedAs (r : Result) (why : Refusal) : Bool :=
  match r with
  | .next _ => false
  | .fault _ => false
  | .refused w => decide (w = why)

/-- Supervisor `d1`'s scalar, its dirty flag set and the next instruction next. -/
def d1Is (T : Ty) (v : BitVec 64) (t : State) : Bool :=
  decide (t.scalar 1 = { ty := T, bits := v }) && (t.d 1).dirty && decide (t.pc = 4)

/-- Exception `c` has been taken from supervisor mode, with `d1` clean. -/
def took (c : BitVec 32) (t : State) : Bool :=
  decide (t.xct = c) && decide (t.mode = .supervisor) && decide (t.pc = 0) && !(t.d 1).dirty

/-- Byte `j` of `d[n]`. -/
def dataAt (t : State) (n : DReg) (j : Nat) : Byte := byteAt (t.d n).data j

/-- User mode at 0x240, the line of the user `ipc` found. -/
def user : State :=
  { State.reset with mode := .user, ivUser := true }.setIlar 63 { zeroIlar with addr := 0x240 }

/-- Exception `c` has been taken from `user`, nothing else done. -/
def tookFromUser (c : BitVec 32) (t : State) : Bool :=
  decide (t.xct = c) && decide (t.mode = .supervisor) && decide (t.pc = 0) && decide ((t.ilar 63).addr = 0x244)

/-! ### Group 0 -/

/-- G0.1 -/
theorem test_addS : goes (exec (.addS 1 2 3) (ops .u8 .u32 0x1ff .u8 0x2)) (d1Is .u8 0x1) = true := by decide +kernel
/-- G0.5 -/
theorem test_subS : goes (exec (.subS 1 2 3) (ops .s16 .s16 0x1 .s16 0x2)) (d1Is .s16 0xffff) = true := by decide +kernel
/-- G0.7 -/
theorem test_sltS : goes (exec (.sltS 1 2 3) (ops .s8 .s8 0xff .s8 0x1)) (d1Is .s8 0x1) = true := by decide +kernel
/-- G0.11 -/
theorem test_mulS : goes (exec (.mulS 1 2 3) (ops .s64 .s32 0xffffffff .u32 0xffffffff)) (d1Is .s64 0xffffffff00000001) = true := by decide +kernel
/-- G0.15 -/
theorem test_andS : goes (exec (.andS 1 2 3) (ops .u8 .u8 0xf0 .u8 0x3c)) (d1Is .u8 0x30) = true := by decide +kernel
/-- G0.16 -/
theorem test_orS : goes (exec (.orS 1 2 3) (ops .u8 .u8 0xf0 .u8 0x3c)) (d1Is .u8 0xfc) = true := by decide +kernel
/-- G0.18 -/
theorem test_xorS : goes (exec (.xorS 1 2 3) (ops .u64 .u64 0xffff0000ffff0000 .u64 0xff00ff00ff00ff)) (d1Is .u64 0xff0000ffff0000ff) = true := by decide +kernel
/-- G0.19 -/
theorem test_shlS : goes (exec (.shlS 1 2 3) (ops .u16 .u16 0x8001 .u8 0x1)) (d1Is .u16 0x2) = true := by decide +kernel
/-- G0.25 -/
theorem test_shrS : goes (exec (.shrS 1 2 3) (ops .s8 .s8 0x80 .u8 0x3)) (d1Is .s8 0xf0) = true := by decide +kernel
/-- G0.32 -/
theorem test_rolS : goes (exec (.rolS 1 2 3) (ops .u8 .u8 0x81 .u8 0x9)) (d1Is .u8 0x3) = true := by decide +kernel
/-- G0.35 -/
theorem test_rorS : goes (exec (.rorS 1 2 3) (ops .s16 .s16 0x1 .u8 0x1)) (d1Is .s16 0x8000) = true := by decide +kernel
/-- G0.4 -/
theorem test_addS_wide : goes (exec (.addS 1 2 3) (ops .s32 .s8 0xff .u8 0xff)) (d1Is .s32 0xfe) = true := by decide +kernel
/-- G0.8 -/
theorem test_sltS_unsigned : goes (exec (.sltS 1 2 3) (ops .u8 .s8 0xff .s8 0x1)) (d1Is .u8 0x0) = true := by decide +kernel
/-- G0.20 -/
theorem test_shlS_over : goes (exec (.shlS 1 2 3) (ops .u16 .u16 0x8001 .u8 0x10)) (d1Is .u16 0x0) = true := by decide +kernel
/-- G0.27 -/
theorem test_shrS_over : goes (exec (.shrS 1 2 3) (ops .s8 .s8 0x80 .u8 0x8)) (d1Is .s8 0xff) = true := by decide +kernel
/-- G0.36 -/
theorem test_rorS_width : goes (exec (.rorS 1 2 3) (ops .u32 .u32 0x12345678 .u8 0x20)) (d1Is .u32 0x12345678) = true := by decide +kernel
/-- G0.13 -/
theorem test_mulS_traps : goes (exec (.mulS 1 2 3) (ops .u32 .u64 2 .u32 2)) (took 3) = true := by decide +kernel
/-- G0.40 -/
theorem test_addAddrS : goes (exec (.addAddrS 1 2 3) (reg (ops .u32 .u8 0 .u32 0x10) 66 0x1237 .u16 zeroLine)) (d1Is .u32 0x1246) = true := by decide +kernel
/-- G0.42 -/
theorem test_shlAddrS : goes (exec (.shlAddrS 1 2 3) (reg (ops .u32 .u8 0 .u8 4) 66 3 .u8 zeroLine)) (d1Is .u32 0x30) = true := by decide +kernel
/-- G0.45 -/
theorem test_addIaddrS : goes (exec (.addIaddrS 1 5 3) ((ops .u64 .u8 0 .u8 4).setIlar 69 { zeroIlar with addr := 0xFFFFFFFC }))
    (d1Is .u64 0x100000000) = true := by decide +kernel
/-- G0.56 -/
theorem test_divS : goes (exec (.divS 1 2 3 4) (reg (ops .s8 .s8 0xF9 .s8 2) 68 0x1180 .u16 zeroLine))
    (fun t => d1Is .s8 0xFD t && decide (t.scalar 4 = { ty := .u16, bits := 0xFFFF })) = true := by decide +kernel
/-- G0.50 with the remainder written last, as in G0.57 -/
theorem test_divS_min : goes (exec (.divS 1 2 3 1) (ops .s8 .s8 0x80 .s8 0xFF)) (d1Is .s8 0) = true := by decide +kernel
/-- G0.53 -/
theorem test_divS_zero : goes (exec (.divS 1 2 3 0) (ops .u8 .u8 7 .u16 0x100)) (took 1) = true := by decide +kernel
/-- G0.60 -/
theorem test_addV : goes (exec (.addV 1 2 3) (vecs .u8 .u8 (ramp 0) .s8 (fill 0xC8)))
    (fun t => decide (dataAt t 1 0 = 0xc8) && decide (dataAt t 1 55 = 0xff) && decide (dataAt t 1 56 = 0x0) && decide (dataAt t 1 127 = 0x47)) = true := by decide +kernel
/-- signed comparison under dA (R124): 0 to 127 are not below -128 -/
theorem test_sltV : goes (exec (.sltV 1 2 3) (vecs .s8 .u8 (ramp 0) .u8 (fill 0x80)))
    (fun t => decide (dataAt t 1 0 = 0x0) && decide (dataAt t 1 127 = 0x0)) = true := by decide +kernel
/-- R123 in lane 0 -/
theorem test_subV : goes (exec (.subV 1 2 3) (vecs .s16 .u16 (one 0 2 1) .u16 (one 0 2 2)))
    (fun t => decide (dataAt t 1 0 = 0xff) && decide (dataAt t 1 1 = 0xff) && decide (dataAt t 1 2 = 0x0)) = true := by decide +kernel
/-- R125: 300 mod 256 = 44 -/
theorem test_mulV : goes (exec (.mulV 1 2 3) (vecs .u8 .u8 (ramp 0) .u8 (fill 3)))
    (fun t => decide (dataAt t 1 1 = 0x3) && decide (dataAt t 1 100 = 0x2c)) = true := by decide +kernel
/-- R126 -/
theorem test_andV : goes (exec (.andV 1 2 3) (vecs .u8 .u8 (fill 0xF0) .u8 (fill 0x3C)))
    (fun t => decide (dataAt t 1 127 = 0x30)) = true := by decide +kernel
/-- R127 -/
theorem test_orV : goes (exec (.orV 1 2 3) (vecs .u8 .u8 (fill 0xF0) .u8 (fill 0x3C)))
    (fun t => decide (dataAt t 1 127 = 0xfc)) = true := by decide +kernel
/-- R128 -/
theorem test_xorV : goes (exec (.xorV 1 2 3) (vecs .u8 .u8 (fill 0xF0) .u8 (fill 0x3C)))
    (fun t => decide (dataAt t 1 127 = 0xcc)) = true := by decide +kernel
/-- R129 in lane 0 -/
theorem test_shlV : goes (exec (.shlV 1 2 3) (vecs .u16 .u16 (one 0 2 0x8001) .s16 (one 0 2 1)))
    (fun t => decide (dataAt t 1 0 = 0x2) && decide (dataAt t 1 1 = 0x0)) = true := by decide +kernel
/-- R130 -/
theorem test_shrV : goes (exec (.shrV 1 2 3) (vecs .s8 .s8 (fill 0x80) .u8 (fill 3)))
    (fun t => decide (dataAt t 1 127 = 0xf0)) = true := by decide +kernel
/-- R131 -/
theorem test_rolV : goes (exec (.rolV 1 2 3) (vecs .u8 .u8 (fill 0x81) .u8 (fill 1)))
    (fun t => decide (dataAt t 1 127 = 0x3)) = true := by decide +kernel
/-- R132 -/
theorem test_rorV : goes (exec (.rorV 1 2 3) (vecs .u8 .u8 (fill 0x81) .u8 (fill 1)))
    (fun t => decide (dataAt t 1 127 = 0xc0)) = true := by decide +kernel
/-- G0.63 -/
theorem test_addV_mixed : refusedAs (exec (.addV 1 2 0) (ops .u32 .u32 0 .u8 0)) .vecMixedSize = true := by decide +kernel
/-- G0.64 -/
theorem test_addAddrV : goes (exec (.addAddrV 1 2 3) (reg (vecs .u32 .u8 zeroLine .u32 (one 124 4 31)) 66 0x1236 .u32 zeroLine))
    (fun t => decide (dataAt t 1 0 = 0x34) && decide (dataAt t 1 124 = 0x53) && decide (dataAt t 1 125 = 0x12)) = true := by decide +kernel
/-- R134: lane 0 shifted by 0, lane 1 by 4 -/
theorem test_shlAddrV : goes (exec (.shlAddrV 1 2 3) (reg (vecs .u32 .u8 zeroLine .u32 (one 4 4 4)) 66 3 .u8 zeroLine))
    (fun t => decide (dataAt t 1 0 = 3) && decide (dataAt t 1 4 = 0x30)) = true := by decide +kernel
/-- R135 -/
theorem test_addIaddrV : goes (exec (.addIaddrV 1 5 3) ((vecs .u32 .u8 zeroLine .u32 (one 4 4 8)).setIlar 69 { zeroIlar with addr := 0x480 }))
    (fun t => decide (dataAt t 1 0 = 0x80) && decide (dataAt t 1 1 = 4) && decide (dataAt t 1 4 = 0x88)) = true := by decide +kernel
/-- G0.66 -/
theorem test_divV : goes (exec (.divV 1 2 3 4) (reg (vecs .u8 .u8 (fill 7) .u8 (fill 2)) 68 0x1180 .u8 zeroLine))
    (fun t => decide (dataAt t 1 127 = 3) && decide (dataAt t 4 127 = 1)) = true := by decide +kernel
/-- G0.65 -/
theorem test_divV_zero : goes (exec (.divV 1 2 3 4) (reg (vecs .u8 .u8 (fill 7) .u8 (patch (fill 2) 77 [0])) 68 0x1180 .u8 zeroLine)) (took 1) = true := by decide +kernel
/-- G0.68, the other holder being of the user bank -/
theorem test_addS_shared : goes (exec (.addS 1 2 0) (reg (reg (ops .u32 .u32 0xAABBCCDD .u8 0) 65 0x1004 .u32 zeroLine) 4 0x1010 .u8 zeroLine))
    (fun t => decide (dataAt t 1 4 = 0xDD) && decide (byteAt (t.dlar 4).data 7 = 0xAA) && (t.dlar 4).dirty) = true := by decide +kernel

/-! ### Group 1 -/

/-- R151 -/
theorem test_addR : goes (exec (.addR 1 2) (vecs .u8 .u8 (ramp 0) .u8 zeroLine)) (d1Is .u8 0xc0) = true := by decide +kernel
/-- R152 -/
theorem test_mulR : goes (exec (.mulR 1 2) (vecs .u16 .u16 (patch (tabulate fun j => if j.val % 2 = 0 then 1 else 0) 0 [3, 0, 5, 0]) .u8 zeroLine)) (d1Is .u16 0xf) = true := by decide +kernel
/-- R153 -/
theorem test_maxR : goes (exec (.maxR 1 2) (vecs .s8 .u8 (patch zeroLine 0 [1, 0xFF]) .u8 zeroLine)) (d1Is .s8 0x1) = true := by decide +kernel
/-- R154 -/
theorem test_minR : goes (exec (.minR 1 2) (vecs .s8 .u8 (patch (fill 2) 0 [1, 0xFF]) .u8 zeroLine)) (d1Is .s8 0xff) = true := by decide +kernel
/-- R155 -/
theorem test_andR : goes (exec (.andR 1 2) (vecs .u8 .u8 (patch (fill 0xFF) 9 [0xF0]) .u8 zeroLine)) (d1Is .u8 0xf0) = true := by decide +kernel
/-- R156 -/
theorem test_orR : goes (exec (.orR 1 2) (vecs .u8 .u8 (patch zeroLine 3 [0x01, 0x80]) .u8 zeroLine)) (d1Is .u8 0x81) = true := by decide +kernel
/-- R157 -/
theorem test_xorR : goes (exec (.xorR 1 2) (vecs .u8 .u8 (fill 0x5A) .u8 zeroLine)) (d1Is .u8 0x0) = true := by decide +kernel
/-- R152 -/
theorem test_mulR_traps : goes (exec (.mulR 1 2) (ops .s64 .u8 0 .u8 0)) (took 3) = true := by decide +kernel
/-- R150, U7 -/
theorem test_maxR_mixed : refusedAs (exec (.maxR 1 2) (ops .u32 .u16 0 .u8 0)) .vecMixedSize = true := by decide +kernel

/-! ### Groups 2, 3, 4: the line 0x20 of memory holds 80, 81, ..., FF (the examples of the rules) -/

/-- Supervisor `d2.scalar = 0x1000`, `d2.addr = 0x2000`; `d3.scalar = 0x21`; memory as the rules' examples have it, at 0x1008 to
0x1027. -/
def loads : State :=
  { reg (reg (ops .u8 .u8 0 .u8 0x21) 65 0x4000 .u8 zeroLine) 66 0x2000 .u32 (one 0 4 0x1000) with
    mem := Memory.writeBytes [] 0x1008 (slice (ramp 0x80) 8 32) }

/-- `d1` has this address and scalar, and is clean. -/
def loaded (addr : Addr) (T : Ty) (v : BitVec 64) (t : State) : Bool :=
  decide ((t.d 1).addr = addr) && decide (t.scalar 1 = { ty := T, bits := v }) && !(t.d 1).dirty && decide (t.pc = 4)

theorem test_ldu8i : goes (exec (.ldu8i 1 2 16) loads) (loaded 0x1010 .u8 0x90) = true := by decide +kernel
theorem test_lds8i : goes (exec (.lds8i 1 2 16) loads) (loaded 0x1010 .s8 0x90) = true := by decide +kernel
theorem test_ldu16i : goes (exec (.ldu16i 1 2 16) loads) (loaded 0x1010 .u16 0x9190) = true := by decide +kernel
theorem test_lds16i : goes (exec (.lds16i 1 2 16) loads) (loaded 0x1010 .s16 0x9190) = true := by decide +kernel
theorem test_ldu32i : goes (exec (.ldu32i 1 2 16) loads) (loaded 0x1010 .u32 0x93929190) = true := by decide +kernel
theorem test_lds32i : goes (exec (.lds32i 1 2 16) loads) (loaded 0x1010 .s32 0x93929190) = true := by decide +kernel
theorem test_ldu64i : goes (exec (.ldu64i 1 2 16) loads) (loaded 0x1010 .u64 0x9796959493929190) = true := by decide +kernel
theorem test_lds64i : goes (exec (.lds64i 1 2 16) loads) (loaded 0x1010 .s64 0x9796959493929190) = true := by decide +kernel
theorem test_ldu8iAddr : goes (exec (.ldu8iAddr 1 2 (-4)) (reg loads 66 0x1013 .u32 (ramp 0x80))) (loaded 0x100C .u8 0x8c) = true := by decide +kernel
theorem test_lds8iAddr : goes (exec (.lds8iAddr 1 2 (-4)) (reg loads 66 0x1013 .u32 (ramp 0x80))) (loaded 0x100C .s8 0x8c) = true := by decide +kernel
theorem test_ldu16iAddr : goes (exec (.ldu16iAddr 1 2 (-4)) (reg loads 66 0x1013 .u32 (ramp 0x80))) (loaded 0x100C .u16 0x8d8c) = true := by decide +kernel
theorem test_lds16iAddr : goes (exec (.lds16iAddr 1 2 (-4)) (reg loads 66 0x1013 .u32 (ramp 0x80))) (loaded 0x100C .s16 0x8d8c) = true := by decide +kernel
theorem test_ldu32iAddr : goes (exec (.ldu32iAddr 1 2 (-4)) (reg loads 66 0x1013 .u32 (ramp 0x80))) (loaded 0x100C .u32 0x8f8e8d8c) = true := by decide +kernel
theorem test_lds32iAddr : goes (exec (.lds32iAddr 1 2 (-4)) (reg loads 66 0x1013 .u32 (ramp 0x80))) (loaded 0x100C .s32 0x8f8e8d8c) = true := by decide +kernel
theorem test_ldu64iAddr : goes (exec (.ldu64iAddr 1 2 (-4)) (reg loads 66 0x1013 .u32 (ramp 0x80))) (loaded 0x100C .u64 0x8f8e8d8c8b8a8988) = true := by decide +kernel
theorem test_lds64iAddr : goes (exec (.lds64iAddr 1 2 (-4)) (reg loads 66 0x1013 .u32 (ramp 0x80))) (loaded 0x100C .s64 0x8f8e8d8c8b8a8988) = true := by decide +kernel
theorem test_ldu8 : goes (exec (.ldu8 1 2 3) loads) (loaded 0x1021 .u8 0xa1) = true := by decide +kernel
theorem test_lds8 : goes (exec (.lds8 1 2 3) loads) (loaded 0x1021 .s8 0xa1) = true := by decide +kernel
theorem test_ldu16 : goes (exec (.ldu16 1 2 3) loads) (loaded 0x1021 .u16 0xa1a0) = true := by decide +kernel
theorem test_lds16 : goes (exec (.lds16 1 2 3) loads) (loaded 0x1021 .s16 0xa1a0) = true := by decide +kernel
theorem test_ldu32 : goes (exec (.ldu32 1 2 3) loads) (loaded 0x1021 .u32 0xa3a2a1a0) = true := by decide +kernel
theorem test_lds32 : goes (exec (.lds32 1 2 3) loads) (loaded 0x1021 .s32 0xa3a2a1a0) = true := by decide +kernel
theorem test_ldu64 : goes (exec (.ldu64 1 2 3) loads) (loaded 0x1021 .u64 0xa7a6a5a4a3a2a1a0) = true := by decide +kernel
theorem test_lds64 : goes (exec (.lds64 1 2 3) loads) (loaded 0x1021 .s64 0xa7a6a5a4a3a2a1a0) = true := by decide +kernel
/-- R68: the last holder of a dirty line writes it back -/
theorem test_ldu8i_releases : goes (exec (.ldu8i 1 2 0) (loads.setDlar 65 { launchDlar with addr := 0x3000, data := one 127 1 0x77, dirty := true }))
    (fun t => decide (t.mem.read 0x307F = 0x77) && loaded 0x1000 .u8 0 t) = true := by decide +kernel
/-- R165 -/
theorem test_ldu8i_d0 : goes (exec (.ldu8i 0 2 0) loads) (fun t => decide ((t.d 0).addr = 0) && decide (t.pc = 4)) = true := by decide +kernel

/-! ### Group 5 (the example state of the rules) -/

/-- Supervisor `d1` at 0x2004 holding 10, 11, ...; `d2.scalar = 0x3000`. -/
def stores : State := reg (ops .u8 .u32 0x3000 .u8 0) 65 0x2004 .u32 (ramp 0x10)

theorem test_stu8i : goes (exec (.stu8i 1 2 8) stores) (fun t => decide (t.mem.read 0x3008 = 0x14) &&
    decide (t.mem.read 0x3008 = 0x14) && decide (t.mem.read 0x3009 = 0) && decide (t.typeOf 1 = .u8) && !(t.d 1).dirty) = true := by decide +kernel
theorem test_sts8i : goes (exec (.sts8i 1 2 8) stores) (fun t => decide (t.mem.read 0x3008 = 0x14) &&
    decide (t.mem.read 0x3008 = 0x14) && decide (t.mem.read 0x3009 = 0) && decide (t.typeOf 1 = .s8) && !(t.d 1).dirty) = true := by decide +kernel
theorem test_stu16i : goes (exec (.stu16i 1 2 8) stores) (fun t => decide (t.mem.read 0x3008 = 0x14) &&
    decide (t.mem.read 0x3009 = 0x15) && decide (t.mem.read 0x300a = 0) && decide (t.typeOf 1 = .u16) && !(t.d 1).dirty) = true := by decide +kernel
theorem test_sts16i : goes (exec (.sts16i 1 2 8) stores) (fun t => decide (t.mem.read 0x3008 = 0x14) &&
    decide (t.mem.read 0x3009 = 0x15) && decide (t.mem.read 0x300a = 0) && decide (t.typeOf 1 = .s16) && !(t.d 1).dirty) = true := by decide +kernel
theorem test_stu32i : goes (exec (.stu32i 1 2 8) stores) (fun t => decide (t.mem.read 0x3008 = 0x14) &&
    decide (t.mem.read 0x300b = 0x17) && decide (t.mem.read 0x300c = 0) && decide (t.typeOf 1 = .u32) && !(t.d 1).dirty) = true := by decide +kernel
theorem test_sts32i : goes (exec (.sts32i 1 2 8) stores) (fun t => decide (t.mem.read 0x3008 = 0x14) &&
    decide (t.mem.read 0x300b = 0x17) && decide (t.mem.read 0x300c = 0) && decide (t.typeOf 1 = .s32) && !(t.d 1).dirty) = true := by decide +kernel
theorem test_stu64i : goes (exec (.stu64i 1 2 8) stores) (fun t => decide (t.mem.read 0x3008 = 0x10) &&
    decide (t.mem.read 0x300f = 0x17) && decide (t.mem.read 0x3010 = 0) && decide (t.typeOf 1 = .u64) && !(t.d 1).dirty) = true := by decide +kernel
theorem test_sts64i : goes (exec (.sts64i 1 2 8) stores) (fun t => decide (t.mem.read 0x3008 = 0x10) &&
    decide (t.mem.read 0x300f = 0x17) && decide (t.mem.read 0x3010 = 0) && decide (t.typeOf 1 = .s64) && !(t.d 1).dirty) = true := by decide +kernel
/-- R69: a held line takes the store; R200: the address is aligned down -/
theorem test_stu32i_held : goes (exec (.stu32i 1 2 9) (reg stores 5 0x3000 .u8 zeroLine)) (fun t => decide (t.mem.read 0x3008 = 0) &&
    decide (byteAt (t.dlar 5).data 8 = 0x14) && (t.dlar 5).dirty) = true := by decide +kernel
/-- R200: a store from `d0` writes zeros -/
theorem test_stu64i_d0 : goes (exec (.stu64i 0 2 0) { stores with mem := [(0x3007, 9), (0x3008, 9)] })
    (fun t => decide (t.mem.read 0x3007 = 0) && decide (t.mem.read 0x3008 = 9)) = true := by decide +kernel
/-- `STORE_MODE = line_retag`; `d1` dirty in line 0x40, which nothing else holds; user `d5` in line 0x60. -/
def retags : State :=
  { (reg stores 5 0x3000 .u8 zeroLine).setDlar 65 { launchDlar with addr := 0x2004, type := .u32, data := ramp 0x10, dirty := true }
    with config := { byteOrder := .little, storeMode := .lineRetag } }

/-- U5, and R66, R68 for the other holder and the line let go of -/
theorem test_sts32i_retag : goes (exec (.sts32i 1 2 9) retags) (fun t => decide (t.d 1 = { launchDlar with addr := 0x3009, type := .s32, data := ramp 0x10, dirty := true }) &&
    decide (byteAt (t.dlar 5).data 0x7F = 0x8F) && (t.dlar 5).dirty && decide (t.mem.read 0x2000 = 0x10) && decide (t.mem.read 0x3008 = 0)) = true := by decide +kernel

/-! ### Group 6 -/

theorem test_dpu8 : goes (exec (.dpu8 1 2) (ops .u8 .s16 0xFFFE .u8 0)) (fun t => decide (t.typeOf 1 = .u8) &&
    decide (dataAt t 1 0 = 0xFE) && decide (dataAt t 1 127 = 0xfe) && (t.d 1).dirty) = true := by decide +kernel
theorem test_dps8 : goes (exec (.dps8 1 2) (ops .u8 .s16 0xFFFE .u8 0)) (fun t => decide (t.typeOf 1 = .s8) &&
    decide (dataAt t 1 0 = 0xFE) && decide (dataAt t 1 127 = 0xfe) && (t.d 1).dirty) = true := by decide +kernel
theorem test_dpu16 : goes (exec (.dpu16 1 2) (ops .u8 .s16 0xFFFE .u8 0)) (fun t => decide (t.typeOf 1 = .u16) &&
    decide (dataAt t 1 0 = 0xFE) && decide (dataAt t 1 127 = 0xff) && (t.d 1).dirty) = true := by decide +kernel
theorem test_dps16 : goes (exec (.dps16 1 2) (ops .u8 .s16 0xFFFE .u8 0)) (fun t => decide (t.typeOf 1 = .s16) &&
    decide (dataAt t 1 0 = 0xFE) && decide (dataAt t 1 127 = 0xff) && (t.d 1).dirty) = true := by decide +kernel
theorem test_dpu32 : goes (exec (.dpu32 1 2) (ops .u8 .s16 0xFFFE .u8 0)) (fun t => decide (t.typeOf 1 = .u32) &&
    decide (dataAt t 1 0 = 0xFE) && decide (dataAt t 1 127 = 0xff) && (t.d 1).dirty) = true := by decide +kernel
theorem test_dps32 : goes (exec (.dps32 1 2) (ops .u8 .s16 0xFFFE .u8 0)) (fun t => decide (t.typeOf 1 = .s32) &&
    decide (dataAt t 1 0 = 0xFE) && decide (dataAt t 1 127 = 0xff) && (t.d 1).dirty) = true := by decide +kernel
theorem test_dpu64 : goes (exec (.dpu64 1 2) (ops .u8 .s16 0xFFFE .u8 0)) (fun t => decide (t.typeOf 1 = .u64) &&
    decide (dataAt t 1 0 = 0xFE) && decide (dataAt t 1 127 = 0xff) && (t.d 1).dirty) = true := by decide +kernel
theorem test_dps64 : goes (exec (.dps64 1 2) (ops .u8 .s16 0xFFFE .u8 0)) (fun t => decide (t.typeOf 1 = .s64) &&
    decide (dataAt t 1 0 = 0xFE) && decide (dataAt t 1 127 = 0xff) && (t.d 1).dirty) = true := by decide +kernel

/-! ### Group 7: bytes of line `b` of memory hold `b` (as in the vectors' setup) -/

def code : State :=
  { State.reset with mem := [(0x80, 1), (0x200, 4), (0x209, 4), (0x280, 5), (0x2FF, 5)] }

/-- R231 -/
theorem test_fetchReg : goes (exec (.fetchReg 1 0 2 1) (reg code 66 0x2000 .u32 (one 0 4 0x202))) (fun t => decide ((t.i 1).addr = 0x200) &&
    decide (byteAt (t.i 1).data 0 = 4) && decide ((t.i 2).addr = 0x280) && decide (byteAt (t.i 2).data 127 = 5)) = true := by decide +kernel
/-- R232 -/
theorem test_fetchImm : goes (exec (.fetchImm 1 63 32 0) (code.setIlar 127 { zeroIlar with addr := 0x10 })) (fun t => decide ((t.i 1).addr = 0x90) &&
    decide (byteAt (t.i 1).data 0 = 1) && decide (t.pc = 0x14)) = true := by decide +kernel
/-- R230, U8, U9 -/
theorem test_fetchImm_own : refusedAs (exec (.fetchImm 62 0 0 1) code) .fetchIntoIpc && refusedAs (exec (.fetchImm 62 0 0 2) code) .registerRange = true := by decide +kernel

/-! ### Group 8 (the vectors' setup) -/

/-- Supervisor at 0x40; `d1` a u16 register at offset 2 whose byte 0 alone is 1; `i2` at 0x27C holding 22, 22, .... -/
def jumps (l : Line) : State :=
  ((reg State.reset 65 0x1002 .u16 l).setIlar 127 { zeroIlar with addr := 0x40 }).setIlar 66
    { zeroIlar with addr := 0x27C, data := fill 0x22 }

/-- The running `ipc` and byte 0 of its line. -/
def at_ (m : Mode) (a : Addr) (b : Byte) (t : State) : Bool :=
  decide (t.mode = m) && decide (t.pc = a) && decide (byteAt t.ipc.data 0 = b)

/-- G8.1 -/
theorem test_selS : goes (exec (.selS 1 2 3 7) (jumps (one 0 2 1))) (at_ .supervisor 0x21C 0x22) = true := by decide +kernel
/-- G8.2, G8.3 -/
theorem test_selV : goes (exec (.selV 1 2 3 7) (jumps (one 0 2 1))) (at_ .supervisor 0x20C 0x22) = true := by decide +kernel
/-- G8.4 -/
theorem test_jzS : goes (exec (.jzS 1 2 5) (jumps (one 0 2 1))) (at_ .supervisor 0x214 0x22) &&
    goes (exec (.jzS 0 63 12) (jumps zeroLine)) (at_ .supervisor 0x30 0) = true := by decide +kernel
/-- G8.10 -/
theorem test_jzV : goes (exec (.jzV 1 2 0) (jumps (one 0 2 1))) (at_ .supervisor 0x44 0) = true := by decide +kernel
/-- G8.8 -/
theorem test_jnzS : goes (exec (.jnzS 1 2 0) (jumps (one 0 2 1))) (at_ .supervisor 0x44 0) = true := by decide +kernel
/-- G8.9 -/
theorem test_jnzV : goes (exec (.jnzV 1 2 0) (jumps (one 0 2 1))) (at_ .supervisor 0x200 0x22) = true := by decide +kernel
/-- G8.13 -/
theorem test_retiS : goes (exec (.retiS 1) ((jumps (one 2 2 1)).setIlar 63 { zeroIlar with addr := 0x208 })) (fun t => t.ie && at_ .user 0x208 0 t) = true := by decide +kernel
/-- G8.15 -/
theorem test_retiV : goes (exec (.retiV 0) (jumps zeroLine)) (fun t => !t.ie && at_ .supervisor 0x44 0 t) = true := by decide +kernel
/-- G8.16 -/
theorem test_retxS : goes (exec (.retxS 1) ((jumps (one 2 2 1)).setIlar 63 { zeroIlar with addr := 0x208 })) (fun t => !t.ie && at_ .user 0x208 0 t) = true := by decide +kernel
/-- R245 -/
theorem test_retxV : goes (exec (.retxV 1) ((jumps (one 0 2 1)).setIlar 63 { zeroIlar with addr := 0x208 })) (at_ .user 0x208 0) = true := by decide +kernel
/-- G8.17, G8.18 -/
theorem test_reti_user : goes (exec (.retiS 1) user) (tookFromUser 5) && goes (exec (.retxV 1) user) (tookFromUser 6) = true := by decide +kernel

/-! ### Group 9 -/

/-- Supervisor mode, supervisor `d1` of a given type, and user (`u`) or supervisor `d2` to `d4` with the addresses and types
of the vectors. -/
def lars (u : Nat) (T : Ty) : State :=
  reg (reg (reg (reg State.reset 65 0x4000 T zeroLine) (Fin.ofNat 128 (u + 2)) 0x1010 .u32 zeroLine)
    (Fin.ofNat 128 (u + 3)) 0x2000 .s8 zeroLine) (Fin.ofNat 128 (u + 4)) 0x207F .u64 zeroLine

def d1Bytes (l : List Byte) (t : State) : Bool := decide (slice (t.d 1).data 0 l.length = l) && (t.d 1).dirty

/-- G9.1 -/
theorem test_getaddrsU : goes (exec (.getaddrsU 1 2 3) (lars 0 .u32)) (d1Bytes [0x10, 0x10, 0, 0, 0, 0x20, 0, 0, 0x7F, 0x20, 0, 0]) = true := by decide +kernel
/-- G9.2 -/
theorem test_getaddrsS : goes (exec (.getaddrsS 1 2 3) (lars 64 .u8)) (d1Bytes [0x10, 0x00, 0x7F, 0]) = true := by decide +kernel
/-- G9.3 -/
theorem test_getaddrsIU : goes (exec (.getaddrsIU 1 62 2) (((lars 0 .u32).setIlar 62 { zeroIlar with addr := 0x300 }).setIlar 63 { zeroIlar with addr := 0x208 }))
    (d1Bytes [0, 3, 0, 0, 8, 2, 0, 0]) = true := by decide +kernel
/-- G9.4 -/
theorem test_getaddrsIS : goes (exec (.getaddrsIS 1 63 1) ((lars 0 .u32).setIlar 127 { zeroIlar with addr := 0x44 })) (d1Bytes [0x44, 0, 0, 0]) = true := by decide +kernel
/-- G9.5 -/
theorem test_gettypesU : goes (exec (.gettypesU 1 2 3) (lars 0 .u8)) (d1Bytes [4, 1, 6, 0]) = true := by decide +kernel
/-- R260 -/
theorem test_gettypesS : goes (exec (.gettypesS 1 2 3) (lars 64 .u16)) (d1Bytes [4, 0, 1, 0, 6, 0, 0]) = true := by decide +kernel
/-- R257, as G9.6: value 16 goes to the next DLAR, at its type -/
theorem test_getaddrsU_next : goes (exec (.getaddrsU 1 2 17) (reg (lars 0 .u64) 66 0x5000 .u16 zeroLine))
    (fun t => decide (slice (t.d 2).data 0 3 = [0x80, 0xFF, 0])) = true := by decide +kernel
/-- Supervisor `d2` (u32) holds 0x1010 and 0x2000, `d3` (u8) holds 4 and 1; the memory of the loads' examples. -/
def multi : State :=
  { reg (reg loads 66 0x5000 .u32 (patch (one 0 4 0x1010) 4 [0, 0x20])) 67 0x5080 .u8 (patch zeroLine 0 [4, 1, 9]) with ie := false }

/-- G9.7 -/
theorem test_ldmU : goes (exec (.ldmU 1 2 3 2) multi) (fun t => decide ((t.dlar 1).addr = 0x1010) && decide ((t.dlar 1).type = .u32) &&
    decide (byteAt (t.dlar 1).data 39 = 0xA7) && decide ((t.dlar 2).addr = 0x2000) && decide ((t.dlar 2).type = .s8)) = true := by decide +kernel
/-- R261 -/
theorem test_ldmS : goes (exec (.ldmS 1 2 3 1) multi) (loaded 0x1010 .u32 0x93929190) = true := by decide +kernel
/-- G9.8, G9.9, U8 -/
theorem test_ldm_refused : refusedAs (exec (.ldmU 1 2 3 3) multi) .ldmTypeCode && refusedAs (exec (.ldmS 2 2 3 1) multi) .ldmOverlap &&
    refusedAs (exec (.ldmU 62 2 3 3) multi) .registerRange = true := by decide +kernel
/-- G9.10 -/
theorem test_fetchmU : goes (exec (.fetchmU 63 2 1) (reg code 66 0x2000 .u32 (one 0 4 0x200)))
    (fun t => t.ivUser && decide ((t.ilar 63).addr = 0x200) && decide (byteAt (t.ilar 63).data 9 = 4)) = true := by decide +kernel
/-- as G9.12 -/
theorem test_fetchmS : goes (exec (.fetchmS 5 2 2) (reg code 66 0x2000 .u32 (patch (one 0 4 0x283) 4 [0x80])))
    (fun t => decide ((t.i 5).addr = 0x280) && decide (byteAt (t.i 5).data 0 = 5) && decide (byteAt (t.i 6).data 0 = 1)) = true := by decide +kernel
/-- G9.11 -/
theorem test_fetchm_own : refusedAs (exec (.fetchmS 63 2 1) (reg code 66 0x2000 .u32 zeroLine)) .fetchIntoIpc = true := by decide +kernel
/-- `d1` and user `d4` hold line 0x20 dirty, byte 0 being AA; memory holds 80, 81, ... there. -/
def dirty : State :=
  let X : Dlar := { launchDlar with addr := 0x1000, data := patch (ramp 0x80) 0 [0xAA], dirty := true }
  { (State.reset.setDlar 65 X).setDlar 4 X with mem := Memory.writeLine [] 0x20 (ramp 0x80) }

/-- G9.13 -/
theorem test_reloadS : goes (exec (.reloadS 1 1) dirty) (fun t => decide (dataAt t 1 0 = 0x80) && decide (byteAt (t.dlar 4).data 0 = 0x80) &&
    !(t.d 1).dirty && !(t.dlar 4).dirty) = true := by decide +kernel
/-- G9.13, named through the user bank -/
theorem test_reloadU : goes (exec (.reloadU 4 1) dirty) (fun t => decide (dataAt t 1 0 = 0x80) && !(t.d 1).dirty) = true := by decide +kernel
/-- G9.14 -/
theorem test_flushS : goes (exec (.flushS 1 1) dirty) (fun t => decide (t.mem.read 0x1000 = 0xAA) && decide (t.mem.read 0x1001 = 0x81) &&
    !(t.d 1).dirty && !(t.dlar 4).dirty && decide (dataAt t 1 0 = 0xAA)) = true := by decide +kernel
/-- G9.16 -/
theorem test_flushU : goes (exec (.flushU 4 0) dirty) (fun t => decide (t.mem.read 0x1000 = 0x80) && (t.d 1).dirty) = true := by decide +kernel
/-- G9.29 -/
theorem test_flushS_range : refusedAs (exec (.flushS 60 5) dirty) .registerRange = true := by decide +kernel
/-- G9.17 -/
theorem test_reloadIS : goes (exec (.reloadIS 1 1) ((code.setIlar 65 { zeroIlar with addr := 0x80, data := fill 0xEE }).setIlar 66 { zeroIlar with addr := 0x80, data := fill 0xEE }))
    (fun t => decide (byteAt (t.i 1).data 0 = 1) && decide (byteAt (t.i 2).data 0 = 0xEE)) = true := by decide +kernel
/-- G9.18 -/
theorem test_reloadIU : goes (exec (.reloadIU 63 1) (code.setIlar 63 { zeroIlar with addr := 0x280 }))
    (fun t => t.ivUser && decide (byteAt (t.ilar 63).data 0 = 5) && decide ((t.ilar 63).addr = 0x280)) = true := by decide +kernel
/-- G9.19 to G9.27 -/
theorem test_group9_user : [Instr.getaddrsS 1 2 1, .getaddrsIS 1 2 1, .gettypesS 1 2 1, .flushS 1 1, .getaddrsS 1 2 0].all
    (fun i => goes (exec i user) (tookFromUser 0x13)) &&
    [Instr.ldmS 1 2 3 1, .fetchmS 1 2 1, .reloadS 1 1, .reloadIS 1 1].all (fun i => goes (exec i user) (tookFromUser 0x14)) = true := by decide +kernel

/-! ### Group 10 -/

/-- G10.13 -/
theorem test_cpyFromIe : goes (exec (.cpyFromIe 1) { ops .u32 .u8 0 .u8 0 with ie := true }) (d1Is .u32 1) = true := by decide +kernel
/-- G10.14, G10.15 -/
theorem test_cpyToIe : goes (exec (.cpyToIe 2) { ops .u8 .u8 0xFE .u8 0 with ie := true }) (fun t => !t.ie) &&
    goes (exec (.cpyToIe 2) (ops .u8 .u8 0xFF .u8 0)) (fun t => t.ie) = true := by decide +kernel
/-- G10.18 -/
theorem test_cpyFromXct : goes (exec (.cpyFromXct 1) { ops .u8 .u8 0 .u8 0 with xct := 0x12345678 }) (d1Is .u8 0x78) = true := by decide +kernel
/-- G10.19 -/
theorem test_cpyToXct : goes (exec (.cpyToXct 2) (ops .u8 .s8 0xFF .u8 0)) (fun t => decide (t.xct = 0xFFFFFFFF)) = true := by decide +kernel
/-- as G10.20 -/
theorem test_cpyFromSwiarg0 : goes (exec (.cpyFromSwiarg0 1) { ops .u32 .u8 0 .u8 0 with swiarg0 := ramp 0 })
    (fun t => decide (dataAt t 1 127 = 127) && (t.d 1).dirty && decide (t.typeOf 1 = .u32)) = true := by decide +kernel
/-- as G10.21 -/
theorem test_cpyToSwiarg0 : goes (exec (.cpyToSwiarg0 2) (vecs .u32 .u8 (ramp 0) .u8 zeroLine))
    (fun t => decide (byteAt t.swiarg0 124 = 0x7C) && !(t.d 2).dirty) = true := by decide +kernel
/-- as G10.20 -/
theorem test_cpyFromSwiarg1 : goes (exec (.cpyFromSwiarg1 1) { ops .u32 .u8 0 .u8 0 with swiarg1 := ramp 0 })
    (fun t => decide (dataAt t 1 127 = 127) && (t.d 1).dirty && decide (t.typeOf 1 = .u32)) = true := by decide +kernel
/-- as G10.21 -/
theorem test_cpyToSwiarg1 : goes (exec (.cpyToSwiarg1 2) (vecs .u32 .u8 (ramp 0) .u8 zeroLine))
    (fun t => decide (byteAt t.swiarg1 124 = 0x7C) && !(t.d 2).dirty) = true := by decide +kernel
/-- as G10.20 -/
theorem test_cpyFromSwiarg2 : goes (exec (.cpyFromSwiarg2 1) { ops .u32 .u8 0 .u8 0 with swiarg2 := ramp 0 })
    (fun t => decide (dataAt t 1 127 = 127) && (t.d 1).dirty && decide (t.typeOf 1 = .u32)) = true := by decide +kernel
/-- as G10.21 -/
theorem test_cpyToSwiarg2 : goes (exec (.cpyToSwiarg2 2) (vecs .u32 .u8 (ramp 0) .u8 zeroLine))
    (fun t => decide (byteAt t.swiarg2 124 = 0x7C) && !(t.d 2).dirty) = true := by decide +kernel
/-- as G10.20 -/
theorem test_cpyFromSwiarg3 : goes (exec (.cpyFromSwiarg3 1) { ops .u32 .u8 0 .u8 0 with swiarg3 := ramp 0 })
    (fun t => decide (dataAt t 1 127 = 127) && (t.d 1).dirty && decide (t.typeOf 1 = .u32)) = true := by decide +kernel
/-- as G10.21 -/
theorem test_cpyToSwiarg3 : goes (exec (.cpyToSwiarg3 2) (vecs .u32 .u8 (ramp 0) .u8 zeroLine))
    (fun t => decide (byteAt t.swiarg3 124 = 0x7C) && !(t.d 2).dirty) = true := by decide +kernel
/-- G10.1 to G10.12 -/
theorem test_cpy_user : [(Instr.cpyFromIe 1, (7 : BitVec 32)), (.cpyToIe 1, 8), (.cpyFromXct 1, 9), (.cpyToXct 1, 10), (.cpyFromSwiarg0 1, 11),
    (.cpyToSwiarg0 1, 12), (.cpyFromSwiarg1 1, 13), (.cpyToSwiarg1 1, 14), (.cpyFromSwiarg2 1, 15), (.cpyToSwiarg2 1, 16),
    (.cpyFromSwiarg3 1, 17), (.cpyToSwiarg3 1, 18)].all (fun x => goes (exec x.1 user) (tookFromUser x.2)) = true := by decide +kernel
/-- G10.22, G10.23 -/
theorem test_swi : goes (exec (.swi 1 2 1 0) (vecs .u8 .u8 (fill 2) .u8 zeroLine)) (fun t => took 4 t && decide (byteAt t.swiarg1 127 = 2) &&
    decide (byteAt t.swiarg3 127 = 0)) && goes (exec (.swi 1 0 0 0) (reg user 1 0x1000 .u8 (fill 0x2A)))
    (fun t => tookFromUser 4 t && decide (byteAt t.swiarg0 127 = 0x2A)) = true := by decide +kernel

/-! ### Group 11 (the vectors' setup) -/

/-- `d2.scalar = 0x100`, `d3.scalar = 0x10`; `d1` at offset 4 holding 10, 11, ...; the environment answers C0, C1, .... -/
def io : State :=
  { reg (ops .u8 .u32 0x100 .u8 0x10) 65 0x1004 .u8 (ramp 0x10) with ioScript := (ramp 0xC0).toList }

/-- An `in`: the event, the type, and the first and the last byte written (`p`, `q`) with a byte beside them. -/
def got (n : Nat) (T : Ty) (p : Nat) (x : Byte) (q : Nat) (y : Byte) (t : State) : Bool :=
  decide (t.ioLog = [.read 0x110 n]) && decide (t.typeOf 1 = T) && decide (dataAt t 1 p = x) && decide (dataAt t 1 q = y) &&
    (t.d 1).dirty

/-- An `out`: the event and the type; `d1` stays clean. -/
def put (bytes : List Byte) (T : Ty) (t : State) : Bool :=
  decide (t.ioLog = [.write 0x110 bytes]) && decide (t.typeOf 1 = T) && !(t.d 1).dirty

theorem test_inu8S : goes (exec (.inu8S 1 2 3) io) (got 1 .u8 4 0xc0 5 0x15) = true := by decide +kernel
theorem test_inu8V : goes (exec (.inu8V 1 2 3) io) (got 128 .u8 0 0xC0 127 0x3F) = true := by decide +kernel
theorem test_ins8S : goes (exec (.ins8S 1 2 3) io) (got 1 .s8 4 0xc0 5 0x15) = true := by decide +kernel
theorem test_ins8V : goes (exec (.ins8V 1 2 3) io) (got 128 .s8 0 0xC0 127 0x3F) = true := by decide +kernel
theorem test_inu16S : goes (exec (.inu16S 1 2 3) io) (got 2 .u16 5 0xc1 6 0x16) = true := by decide +kernel
theorem test_inu16V : goes (exec (.inu16V 1 2 3) io) (got 128 .u16 0 0xC0 127 0x3F) = true := by decide +kernel
theorem test_ins16S : goes (exec (.ins16S 1 2 3) io) (got 2 .s16 5 0xc1 6 0x16) = true := by decide +kernel
theorem test_ins16V : goes (exec (.ins16V 1 2 3) io) (got 128 .s16 0 0xC0 127 0x3F) = true := by decide +kernel
theorem test_inu32S : goes (exec (.inu32S 1 2 3) io) (got 4 .u32 7 0xc3 8 0x18) = true := by decide +kernel
theorem test_inu32V : goes (exec (.inu32V 1 2 3) io) (got 128 .u32 0 0xC0 127 0x3F) = true := by decide +kernel
theorem test_ins32S : goes (exec (.ins32S 1 2 3) io) (got 4 .s32 7 0xc3 8 0x18) = true := by decide +kernel
theorem test_ins32V : goes (exec (.ins32V 1 2 3) io) (got 128 .s32 0 0xC0 127 0x3F) = true := by decide +kernel
theorem test_inu64S : goes (exec (.inu64S 1 2 3) io) (got 8 .u64 7 0xc7 8 0x18) = true := by decide +kernel
theorem test_inu64V : goes (exec (.inu64V 1 2 3) io) (got 128 .u64 0 0xC0 127 0x3F) = true := by decide +kernel
theorem test_ins64S : goes (exec (.ins64S 1 2 3) io) (got 8 .s64 7 0xc7 8 0x18) = true := by decide +kernel
theorem test_ins64V : goes (exec (.ins64V 1 2 3) io) (got 128 .s64 0 0xC0 127 0x3F) = true := by decide +kernel
theorem test_outu8S : goes (exec (.outu8S 1 2 3) io) (put [0x14] .u8) = true := by decide +kernel
theorem test_outu8V : goes (exec (.outu8V 1 2 3) io) (put (ramp 0x10).toList .u8) = true := by decide +kernel
theorem test_outs8S : goes (exec (.outs8S 1 2 3) io) (put [0x14] .s8) = true := by decide +kernel
theorem test_outs8V : goes (exec (.outs8V 1 2 3) io) (put (ramp 0x10).toList .s8) = true := by decide +kernel
theorem test_outu16S : goes (exec (.outu16S 1 2 3) io) (put [0x14, 0x15] .u16) = true := by decide +kernel
theorem test_outu16V : goes (exec (.outu16V 1 2 3) io) (put (ramp 0x10).toList .u16) = true := by decide +kernel
theorem test_outs16S : goes (exec (.outs16S 1 2 3) io) (put [0x14, 0x15] .s16) = true := by decide +kernel
theorem test_outs16V : goes (exec (.outs16V 1 2 3) io) (put (ramp 0x10).toList .s16) = true := by decide +kernel
theorem test_outu32S : goes (exec (.outu32S 1 2 3) io) (put [0x14, 0x15, 0x16, 0x17] .u32) = true := by decide +kernel
theorem test_outu32V : goes (exec (.outu32V 1 2 3) io) (put (ramp 0x10).toList .u32) = true := by decide +kernel
theorem test_outs32S : goes (exec (.outs32S 1 2 3) io) (put [0x14, 0x15, 0x16, 0x17] .s32) = true := by decide +kernel
theorem test_outs32V : goes (exec (.outs32V 1 2 3) io) (put (ramp 0x10).toList .s32) = true := by decide +kernel
theorem test_outu64S : goes (exec (.outu64S 1 2 3) io) (put [0x10, 0x11, 0x12, 0x13, 0x14, 0x15, 0x16, 0x17] .u64) = true := by decide +kernel
theorem test_outu64V : goes (exec (.outu64V 1 2 3) io) (put (ramp 0x10).toList .u64) = true := by decide +kernel
theorem test_outs64S : goes (exec (.outs64S 1 2 3) io) (put [0x10, 0x11, 0x12, 0x13, 0x14, 0x15, 0x16, 0x17] .s64) = true := by decide +kernel
theorem test_outs64V : goes (exec (.outs64V 1 2 3) io) (put (ramp 0x10).toList .s64) = true := by decide +kernel
/-- G11.7, G11.13 -/
theorem test_io_d0 : goes (exec (.inu32S 0 2 3) io) (fun t => decide (t.ioLog = [.read 0x110 4]) && decide (t.ioScript.length = 124)) &&
    goes (exec (.outu32S 0 2 3) io) (fun t => decide (t.ioLog = [.write 0x110 [0, 0, 0, 0]])) = true := by decide +kernel

/-! ### Steps (spec/95_test_vectors.md 2.11) -/

/-- X.1 -/
theorem test_step_interrupt : goes (step { user with ie := true, irqScript := [true], mem := Memory.writeLine [] 0 (fill 0xAB) })
    (fun t => decide (t.xct = 0) && !t.ie && at_ .supervisor 0 0xAB t && decide ((t.ilar 63).addr = 0x240)) = true := by decide +kernel
/-- X.2 -/
theorem test_step_masked : goes (step { user with irqScript := [true] }) (at_ .user 0x244 0) = true := by decide +kernel
/-- X.3 -/
theorem test_step_interrupt_supervisor : goes (step (({ jumps zeroLine with ie := true, irqScript := [true] }).setIlar 73 { zeroIlar with data := fill 0x99 }))
    (fun t => decide (t.xct = 0) && !t.ie && at_ .supervisor 0 0x99 t) = true := by decide +kernel
/-- X.4 -/
theorem test_step_runs_off : goes (step (user.setIlar 63 { zeroIlar with addr := 0x27C })) (fun t => !t.ivUser && decide (t.pc = 0x280) &&
    goes (step t) (fun u => decide (u.xct = 0x15) && decide (u.mode = .supervisor) && decide ((u.ilar 63).addr = 0x280) && !u.ivUser)) = true := by decide +kernel
/-- as X.5 -/
theorem test_step_finds_line : goes (step ({ user with ivUser := false }.setIlar 5 { zeroIlar with addr := 0x27C, data := fill 0 }))
    (fun t => t.ivUser && at_ .user 0x244 0 t) = true := by decide +kernel
/-- X.6 -/
theorem test_step_supervisor_miss : decide (step ({ State.reset with ivSupervisor := false }.setIlar 127 { zeroIlar with addr := 0x80 }) matches .fault .supervisorImiss) = true := by decide +kernel
/-- X.7 -/
theorem test_step_undefined : goes (step (user.withFetchWord 32 0xC0123456)) (tookFromUser 2) = true := by decide +kernel
/-- G0.70 -/
theorem test_step_rejected : refusedAs (step (State.reset.withFetchWord 32 0x00420C20)) (.rejectedWord .literalZero) = true := by decide +kernel
/-- G8.4 -/
theorem test_withFetchWord : goes (step (State.reset.withFetchWord 32 0x803F3001)) (fun t => decide (t.pc = 0x30)) = true := by decide +kernel

/-! ### Witnesses

For each statement of Obligations.lean with hypotheses, a state and operands that meet them all together, and for a statement
in several clauses one for each clause, at the ends of its range. -/

/-- `s` about to run an instruction. -/
def about (s : State) (i : Instr) : State := s.withFetchWord 32 (encode i).toNat

/-- The bytes that the step function decodes. -/
def atIpc (s : State) : Decoded :=
  decodeBytes s.config.byteOrder ((List.range 4).map fun j => byteAt s.ipc.data (4 * (s.pc.toNat % 128 / 4) + j))

theorem next_of_goes {r : Result} {p : State → Bool} (h : goes r p = true) : ∃ t, r = .next t ∧ p t = true := by
  unfold goes at h
  split at h
  · exact ⟨_, rfl, h⟩
  · cases h
  · cases h

theorem witness_DecodeOfEncode : (Instr.fetchImm 63 63 (-1024) 15).wellFormed = true ∧
    (Instr.ldmS 63 63 63 63).wellFormed = true := by decide
theorem witness_EncodeOfDecode : decode 0x7FFF801F = .ok (.fetchImm 63 63 (-1024) 15) := by decide +kernel
theorem witness_FetchDisplacementIsSignExtended : decode 0x707F8001 = .ok (.fetchImm 1 63 (-1024) 0) ∧
    decode 0x707F7FE1 = .ok (.fetchImm 1 63 1023 0) := by decide +kernel

/-- The example of the stores about to store into memory: an instruction that writes memory, with `d2` at 0x3000 unheld. -/
theorem witness_StepKeepsMemoryForm : (about stores (.stu32i 1 2 8)).mem.wf = true ∧
    ∃ t, step (about stores (.stu32i 1 2 8)) = .next t ∧ decide (t.mem ≠ []) = true :=
  ⟨by decide +kernel, next_of_goes (p := fun t => decide (t.mem ≠ [])) (by decide +kernel)⟩
theorem witness_StepKeepsInstructionAddressesAligned : (about (jumps (one 0 2 1)) (.selS 1 2 3 31)).ilarsAligned ∧
    ∃ t, step (about (jumps (one 0 2 1)) (.selS 1 2 3 31)) = .next t ∧ decide (t.pc = 0x27C) = true :=
  ⟨by unfold State.ilarsAligned; decide +kernel, next_of_goes (p := fun t => decide (t.pc = 0x27C)) (by decide +kernel)⟩
theorem witness_StepKeepsZeroRegisters : (about io (.inu32S 0 2 3)).zeroRegs ∧
    ∃ t, step (about io (.inu32S 0 2 3)) = .next t ∧ decide (t.ioLog ≠ []) = true :=
  ⟨by unfold State.zeroRegs; decide +kernel, next_of_goes (p := fun t => decide (t.ioLog ≠ [])) (by decide +kernel)⟩

/-- DLARs whose data and dirty flag are a function of their line share their lines. -/
theorem shared_of {s : State} (f : LineNo → Line × Bool)
    (h : ∀ k, isZeroReg k = false → ((s.dlar k).data, (s.dlar k).dirty) = f (lineOf (s.dlar k).addr)) : s.shared := by
  intro b j k hj hk
  have h1 := h j hj.1
  have h2 := h k hk.1
  rw [hj.2] at h1
  rw [hk.2, ← h1] at h2
  exact ⟨(congrArg Prod.fst h2).symm, (congrArg Prod.snd h2).symm⟩

/-- DLARs that are dirty or hold a line of zeros, where memory has zeros, are as memory has them where they are clean. -/
theorem cleanLines_of {s : State} (h : ∀ k, isZeroReg k = false → (s.dlar k).dirty = true ∨
      ((s.dlar k).data = zeroLine ∧ lineOf (s.dlar k).addr = lineOf Launch.larAddr))
    (hm : ∀ j : Fin 128, s.mem.read (lineAddr (lineOf Launch.larAddr) j.val) = 0) : s.cleanLines := by
  intro b k hk hc j hj
  rcases h k hk.1 with h1 | ⟨h1, h2⟩
  · rw [h1] at hc; cases hc
  · rw [h1, ← hk.2, h2, hm ⟨j, hj⟩]
    simp [byteAt, zeroLine, hj]

/-- `d1` and user `d4` hold line 0x20 dirty; the next instruction stores into that line. -/
def sharing : State := about (reg dirty 66 Launch.larAddr .u8 zeroLine) (.stu32i 1 3 1)

theorem sharing_shared : sharing.shared :=
  shared_of (fun b => if b = 0x20 then (patch (ramp 0x80) 0 [0xAA], true) else (zeroLine, false)) (by decide +kernel)
theorem witness_StepKeepsSharing : sharing.shared ∧ ∃ t, step sharing = .next t ∧ (t.d 1).dirty = true :=
  ⟨sharing_shared, next_of_goes (p := fun t => (t.d 1).dirty) (by decide +kernel)⟩
theorem witness_StepKeepsCleanLines : sharing.mem.wf = true ∧ sharing.shared ∧ sharing.cleanLines ∧
    ∃ t, step sharing = .next t ∧ (t.d 1).dirty = true :=
  ⟨by decide +kernel, sharing_shared, cleanLines_of (by decide +kernel) (by decide +kernel),
    next_of_goes (p := fun t => (t.d 1).dirty) (by decide +kernel)⟩

/-- With `ie` clear, at the end of a line; with `ie` set and the request not asserted. -/
theorem witness_StepRunsTheDecodedInstruction :
    ((about (State.reset.setIlar 127 { zeroIlar with addr := 0x7C }) (.divV 1 2 3 4)).ie = false ∧
      (about (State.reset.setIlar 127 { zeroIlar with addr := 0x7C }) (.divV 1 2 3 4)).iv .supervisor = true ∧
      (Instr.divV 1 2 3 4).wellFormed = true ∧
      atIpc (about (State.reset.setIlar 127 { zeroIlar with addr := 0x7C }) (.divV 1 2 3 4)) = .ok (.divV 1 2 3 4)) ∧
    ((about { user with ie := true } (.swi 1 2 3 4)).irq = false ∧ (about { user with ie := true } (.swi 1 2 3 4)).iv .user = true ∧
      atIpc (about { user with ie := true } (.swi 1 2 3 4)) = .ok (.swi 1 2 3 4)) := by decide +kernel

theorem hasInstrLine_of {s : State} {b : LineNo} {x k : PhysReg}
    (h : (!isZeroReg k && k != x && s.lineValid k && lineOf (s.ilars[k]).addr == b) = true) : s.HasInstrLine b x k :=
  (ilookup_pred s b x k).1 h
theorem not_hasInstrLine_of {s : State} {b : LineNo} {x k : PhysReg}
    (h : (!isZeroReg k && k != x && s.lineValid k && lineOf (s.ilars[k]).addr == b) = false) : ¬ s.HasInstrLine b x k := by
  rw [← ilookup_pred, h]
  exact Bool.false_ne_true

/-- User mode with its line unfound; the only other ILAR that has it is the supervisor `ipc`, the last in the search. -/
def lost : State := { user with ivUser := false }.setIlar 127 { zeroIlar with addr := 0x200, data := fill 1 }

theorem witness_MissingLineComesFromAnotherIlar : lost.ie = false ∧ lost.iv lost.mode = false ∧
    lost.HasInstrLine (lineOf lost.pc) (ipcOf lost.mode) 127 ∧
    ∀ j, j < 127 → ¬ lost.HasInstrLine (lineOf lost.pc) (ipcOf lost.mode) j :=
  ⟨by decide, by decide, hasInstrLine_of (by decide +kernel), fun j hj => not_hasInstrLine_of (by
    have : ∀ j : Fin 128, j < 127 → (!isZeroReg j && j != ipcOf lost.mode && lost.lineValid j &&
        lineOf (lost.ilars[j]).addr == lineOf lost.pc) = false := by decide +kernel
    exact this j hj)⟩

theorem witness_InterruptIsTakenFirst : ∀ m ∈ [Mode.user, .supervisor],
    { user with mode := m, ie := true, irqScript := [true] }.ie = true ∧
    { user with mode := m, ie := true, irqScript := [true] }.irq = true := by decide

/-- The line of `user`'s `ipc` in no other ILAR, in either mode. -/
theorem witness_LineInNoIlarIsAMiss :
    ({ user with ivUser := false }.iv .user = false ∧
      ∀ k, ¬ { user with ivUser := false }.HasInstrLine (lineOf { user with ivUser := false }.pc) 63 k) ∧
    ({ State.reset with ivSupervisor := false }.iv .supervisor = false ∧
      ∀ k, ¬ { State.reset with ivSupervisor := false }.HasInstrLine (lineOf { State.reset with ivSupervisor := false }.pc) 127 k) :=
  ⟨⟨by decide, fun k => not_hasInstrLine_of (by revert k; decide +kernel)⟩,
    ⟨by decide, fun k => not_hasInstrLine_of (by revert k; decide +kernel)⟩⟩

theorem witness_UndefinedWordRaisesExceptionTwo :
    atIpc (user.withFetchWord 32 0xFFFFFFFF) = .undefined ∧ atIpc (user.withFetchWord 32 0x10000007) = .undefined ∧
    atIpc (user.withFetchWord 32 0x00420C20) = .rejected .literalZero ∧
    atIpc (user.withFetchWord 32 0x90420448) = .rejected .unusedField ∧
    (user.withFetchWord 32 0xFFFFFFFF).ie = false ∧ (user.withFetchWord 32 0xFFFFFFFF).iv .user = true := by decide +kernel

theorem witness_OnlyReturnsLeaveSupervisorMode : (about (jumps (one 2 2 1)) (.retxS 1)).mode = .supervisor ∧
    ∃ t, step (about (jumps (one 2 2 1)) (.retxS 1)) = .next t ∧ decide (t.mode = .user) = true :=
  ⟨by decide +kernel, next_of_goes (p := fun t => decide (t.mode = .user)) (by decide +kernel)⟩
/-- Both conclusions occur: an entry with the greatest code (a user mode miss), and `cpy.s xct, dA`. -/
theorem witness_ExceptionTypeIsWrittenOnlyOnEntry :
    (∃ t, step { user with ivUser := false } = .next t ∧ decide (t.xct = 0x15) = true) ∧
    ∃ t, step (about (ops .u8 .s8 0xFF .u8 0) (.cpyToXct 2)) = .next t ∧ decide (t.xct = 0xFFFFFFFF) = true :=
  ⟨next_of_goes (p := fun t => decide (t.xct = 0x15)) (by decide +kernel),
    next_of_goes (p := fun t => decide (t.xct = 0xFFFFFFFF)) (by decide +kernel)⟩
/-- A step that stays in user mode, and one that leaves it. -/
theorem witness_UserModeCannotTouchSupervisorRegisters : user.mode = .user ∧
    (∃ t, step (about user (.addS 1 2 3)) = .next t ∧ decide (t.mode = .user) = true) ∧
    ∃ t, step (about user (.swi 1 2 3 4)) = .next t ∧ decide (t.mode = .supervisor) = true :=
  ⟨by decide, next_of_goes (p := fun t => decide (t.mode = .user)) (by decide +kernel),
    next_of_goes (p := fun t => decide (t.mode = .supervisor)) (by decide +kernel)⟩
/-- A step that makes an access, and one that makes none. -/
theorem witness_IoSpaceIsReachedByGroupElevenOnly :
    (∃ t, step (about io (.inu8S 1 2 3)) = .next t ∧ decide (t.ioLog = [.read 0x110 1]) = true) ∧
    ∃ t, step (about io (.addS 1 2 3)) = .next t ∧ decide (t.ioLog = []) = true :=
  ⟨next_of_goes (p := fun t => decide (t.ioLog = [.read 0x110 1])) (by decide +kernel),
    next_of_goes (p := fun t => decide (t.ioLog = [])) (by decide +kernel)⟩

/-- The last element of a register; a stream that ends with the last element of `d63`, and one element more. -/
theorem witness_StreamsWalkElementByElement :
    (State.reset.stream 63 0 = some []) ∧ ((State.reset.stream 62 129).map fun l => l[128]?) = some (some (63, 0)) ∧
    (State.reset.stream 63 128).isSome = true ∧ State.reset.stream 63 129 = none := by decide +kernel

/-- Sources of dA's size, none 64-bit, signed and unsigned. -/
theorem witness_AddSubSltResult : (ops .u32 .s32 5 .u32 0xFFFFFFFF).SameSize 1 [2, 3] := by
  unfold State.SameSize; decide +kernel
theorem witness_AndOrXorResult : (ops .u64 .s64 5 .u64 3).SameSize 1 [2, 3] := by unfold State.SameSize; decide +kernel
/-- A 64-bit destination is allowed in the scalar form, and sizes that agree in the vector form. -/
theorem witness_MulResult : (ops .u64 .u8 5 .u16 3).No64 [2, 3] ∧
    (ops .u32 .s32 5 .u32 3).No64 [2, 3] ∧ (ops .u32 .s32 5 .u32 3).SameSize 1 [2, 3] := by
  unfold State.No64 State.SameSize; decide +kernel
/-- Counts of the width and more. -/
theorem witness_ShiftResult : (ops .s32 .s32 5 .u32 32).No64 [1, 2, 3] ∧ (ops .s32 .s32 5 .u32 32).SameSize 1 [2, 3] := by
  unfold State.No64 State.SameSize; decide +kernel
theorem witness_RotateResult : (ops .u8 .u8 5 .u8 0xFF).No64 [1, 2, 3] ∧ (ops .u8 .u8 5 .u8 0xFF).SameSize 1 [2, 3] := by
  unfold State.No64 State.SameSize; decide +kernel
/-- dB of a 64-bit type, whose size plays no part. -/
theorem witness_AddressOperandResult : (ops .u8 .u64 5 .u8 3).No64 [1, 3] ∧ (ops .u8 .u64 5 .u8 3).SameSize 1 [3] := by
  unfold State.No64 State.SameSize; decide +kernel
/-- A divisor that is not zero at dA's type, and one that is zero only there. -/
theorem witness_DivScalarResult : (ops .u8 .u8 5 .u16 0x101).No64 [3] ∧
    (ops .u8 .u8 5 .u16 0x101).scalarVal .u8 3 ≠ 0 ∧ (ops .u8 .u8 5 .u16 0x100).No64 [3] ∧
    (ops .u8 .u8 5 .u16 0x100).scalarVal .u8 3 = 0 := by unfold State.No64; decide +kernel
/-- No zero element; a zero in the last element alone. -/
theorem witness_DivVectorResult :
    ((vecs .u8 .u8 (fill 9) .s8 (fill 2)).No64 [3] ∧ (vecs .u8 .u8 (fill 9) .s8 (fill 2)).SameSize 1 [2, 3, 1] ∧
      ∀ k, k < 128 → (vecs .u8 .u8 (fill 9) .s8 (fill 2)).laneVal .u8 3 k ≠ 0) ∧
    (vecs .u8 .u8 (fill 9) .s8 (patch (fill 2) 127 [0])).SameSize 1 [2, 3, 1] ∧
      (vecs .u8 .u8 (fill 9) .s8 (patch (fill 2) 127 [0])).laneVal .u8 3 127 = 0 := by
  unfold State.No64 State.SameSize; decide +kernel
/-- One operand of a 64-bit type: dA, dB, dC. -/
theorem witness_SixtyFourBitTypesRaiseExceptionThree :
    (∃ n ∈ [(1 : DReg), 2, 3], ((ops .s64 .u8 0 .u8 0).typeOf n).is64 = true) ∧
    (∃ n ∈ [(2 : DReg), 3], ((ops .u8 .u64 0 .u8 0).typeOf n).is64 = true) ∧
    ∃ n ∈ [(3 : DReg)], ((ops .u8 .u8 0 .u64 0).typeOf n).is64 = true := by decide +kernel
/-- One source of another size, no operand of a 64-bit type. -/
theorem witness_MixedElementSizesAreRefused : ¬ (ops .u16 .u16 0 .u8 0).SameSize 1 [2, 3] ∧
    (ops .u16 .u16 0 .u8 0).No64 [1, 2, 3] ∧ ¬ (ops .u16 .s32 0 .u8 0).SameSize 1 [2] := by
  unfold State.No64 State.SameSize; decide +kernel
theorem witness_ReduceSumAndProductResult : (vecs .s16 .u16 (ramp 0) .u8 zeroLine).SameSize 1 [2] ∧
    (vecs .s16 .u16 (ramp 0) .u8 zeroLine).No64 [1] := by unfold State.No64 State.SameSize; decide +kernel
theorem witness_ReduceMaxAndMinResult : (vecs .s64 .u64 (ramp 0) .u8 zeroLine).SameSize 1 [2] := by
  unfold State.SameSize; decide +kernel
theorem witness_ReduceBitwiseResult : (vecs .s8 .u8 (ramp 0) .u8 zeroLine).SameSize 1 [2] := by
  unfold State.SameSize; decide +kernel

/-- Memory with bytes at both ends of the address space. -/
theorem witness_mem_wf : Memory.wf [(0, 1), (2 ^ 32 - 1, 0xFF)] = true := by decide
theorem witness_LoadFromBaseAndImmediate : loads.mem.wf = true := by decide +kernel
theorem witness_LoadFromAddressAndImmediate : dirty.mem.wf = true := by decide +kernel
theorem witness_LoadFromBaseAndIndex : multi.mem.wf = true := by decide +kernel
/-- Both values of `STORE_MODE`. -/
theorem witness_StoreResult : (stores.mem.wf = true ∧ stores.config.storeMode = .scalarWrite) ∧
    retags.mem.wf = true ∧ retags.config.storeMode = .lineRetag := by decide +kernel

/-- The last ranges that do not reach the `ipc`. -/
theorem witness_FetchFillsConsecutiveIlars : (62 : IReg).val + 0 < 63 ∧ (47 : IReg).val + 15 < 63 := by decide
/-- A nonzero and a zero scalar and vector, the last index, an ILAR that is not the `ipc`. -/
theorem witness_TakenJumpsStayInTheLineOfTheirIlar : (jumps (one 2 2 1)).NonZeroScalar 1 ∧ ¬ (jumps (one 0 2 1)).NonZeroScalar 1 ∧
    (jumps (one 127 1 1)).NonZeroVector 1 ∧ ¬ (jumps zeroLine).NonZeroVector 1 ∧ 31 < 32 ∧ (2 : IReg) ≠ 63 := by
  unfold State.NonZeroScalar State.NonZeroVector; decide +kernel
/-- A nonzero and a zero scalar; a vector whose last byte alone is not zero, and a zero one. -/
theorem witness_SelChoosesByCondition : (jumps (one 2 2 1)).NonZeroScalar 1 ∧ ¬ (jumps (one 0 2 1)).NonZeroScalar 1 ∧
    (jumps (one 127 1 1)).NonZeroVector 1 ∧ ¬ (jumps zeroLine).NonZeroVector 1 := by
  unfold State.NonZeroScalar State.NonZeroVector; decide +kernel
theorem witness_JzAndJnzJumpByCondition : (jumps (one 3 1 0x80)).NonZeroScalar 1 ∧ ¬ (jumps (one 4 2 1)).NonZeroScalar 1 ∧
    (jumps (one 0 1 1)).NonZeroVector 1 ∧ ¬ (jumps zeroLine).NonZeroVector 0 := by
  unfold State.NonZeroScalar State.NonZeroVector; decide +kernel
theorem witness_ReturnsFromSupervisorMode : (jumps (one 2 2 1)).mode = .supervisor ∧ (jumps (one 2 2 1)).NonZeroScalar 1 ∧
    (jumps (one 2 2 1)).NonZeroVector 1 ∧ ¬ (jumps (one 2 2 1)).NonZeroScalar 0 ∧ ¬ (jumps (one 2 2 1)).NonZeroVector 0 ∧
    user.mode = .user := by unfold State.NonZeroScalar State.NonZeroVector; decide +kernel

/-- Each bank, from the mode it is open to; ranges of none and up to number 63; a stream of one register and of two. -/
theorem witness_GatherWritesTheStream :
    (BankOpen .user .user ∧ BankOpen .supervisor .user ∧ BankOpen .supervisor .supervisor) ∧
    (InBank 63 0 ∧ InBank 63 1 ∧ InBank 1 63) ∧
    (lars 0 .u32).stream 1 0 = some [] ∧ (lars 0 .u32).stream 1 3 = some [(1, 0), (1, 1), (1, 2)] ∧
    ((lars 0 .u64).stream 1 17).map List.getLast? = some (some (2, 0)) := by
  unfold BankOpen InBank; decide +kernel
/-- Two destinations up to number 63, codes 4 and 1; the greatest code, 7. -/
theorem witness_LdmLoadsEachDestination : multi.mem.wf = true ∧ BankOpen multi.mode .user ∧ InBank 62 2 ∧
    multi.stream 2 2 = some [(2, 0), (2, 1)] ∧ multi.stream 3 2 = some [(3, 0), (3, 1)] ∧
    [Ty.u32, .s8].map Ty.code =
      ([((3 : DReg), 0), (3, 1)].map fun x => (BitVec.ofInt 32 (multi.lane x.1 x.2).val).toNat) ∧
    (∀ x ∈ [((2 : DReg), 0), (2, 1)] ++ [(3, 0), (3, 1)], multi.reg x.1 ∉ bankRange .user 62 2) ∧
    [Ty.s64].map Ty.code = ([((3 : DReg), 0)].map fun x =>
      (BitVec.ofInt 32 ((reg multi 67 0x5080 .u8 (one 0 1 7)).lane x.1 x.2).val).toNat) := by
  unfold BankOpen InBank; decide +kernel
/-- The other mode's `ipc` alone, and the supervisor's registers up to the one before the `ipc`. -/
theorem witness_FetchmFillsEachDestination : BankOpen multi.mode .user ∧ InBank 63 1 ∧ ipcOf multi.mode ∉ bankRange .user 63 1 ∧
    multi.stream 2 1 = some [(2, 0)] ∧ BankOpen multi.mode .supervisor ∧ InBank 61 2 ∧
    ipcOf multi.mode ∉ bankRange .supervisor 61 2 ∧ multi.stream 2 2 = some [(2, 0), (2, 1)] := by
  unfold BankOpen InBank; decide +kernel
theorem witness_ReloadAndFlushEachDlar : dirty.mem.wf = true ∧ BankOpen dirty.mode .supervisor ∧ InBank 0 63 ∧ InBank 63 1 ∧
    BankOpen user.mode .user := by unfold BankOpen InBank; decide +kernel
theorem witness_ReloadEachIlar : BankOpen code.mode .user ∧ InBank 63 1 ∧ InBank 63 0 ∧ ¬ InBank 63 2 := by
  unfold BankOpen InBank; decide +kernel
theorem witness_UserModeMayNotNameTheSupervisorBank : user.mode = .user := by decide
/-- Each refusal, one past the last range that is allowed: 49 + 15 and 48 + 15, a range and a stream past number 63, the
running `ipc` in the range, the code 8, and a destination that a stream reads. -/
theorem witness_RegisterRangeRefusals : BankOpen multi.mode .supervisor ∧ 64 ≤ (49 : Fin 64).val + 15 ∧
    (48 : Fin 64).val + 15 = 63 ∧ ¬ InBank 63 2 ∧ InBank 63 1 ∧ State.reset.stream 63 129 = none ∧
    (multi.stream 2 1 ≠ none ∧ ipcOf multi.mode ∈ bankRange .supervisor 63 1) ∧
    (multi.stream 2 1 = some [(2, 0)] ∧ multi.stream 3 1 = some [(3, 0)] ∧
      (∃ x ∈ [((3 : DReg), 0)], 8 ≤ (BitVec.ofInt 32 ((reg multi 67 0x5080 .u8 (one 0 1 8)).lane x.1 x.2).val).toNat) ∧
      (∀ x ∈ [((3 : DReg), 0)], (BitVec.ofInt 32 (multi.lane x.1 x.2).val).toNat < 8) ∧
      (∃ x ∈ [((2 : DReg), 0)] ++ [(3, 0)], multi.reg x.1 ∈ bankRange .supervisor 2 1)) := by
  unfold BankOpen InBank; decide +kernel

theorem witness_CpyOfIeAndXct : (ops .u8 .s8 0xFF .u8 0).mode = .supervisor := by decide +kernel
theorem witness_CpyOfSwiargResult : { ops .u32 .u8 0 .u8 0 with swiarg3 := ramp 0 }.mode = .supervisor := by decide +kernel
/-- The least and the greatest index, in a word of each mnemonic. -/
theorem witness_JumpIndexIsShiftedOnce : decode 0x80420000 = .ok (.selS 1 2 0 0) ∧ decode 0x80427C10 = .ok (.selV 1 2 31 0) ∧
    decode 0x807F7C01 = .ok (.jzS 1 63 31) ∧ decode 0x804F0011 = .ok (.jzV 1 15 0) ∧
    decode 0x807F7C02 = .ok (.jnzS 1 63 31) ∧ decode 0x80427C12 = .ok (.jnzV 1 2 31) := by decide +kernel
theorem witness_CpyInUserModeIsAnException : user.mode = .user := by decide

end Sys2Proof.Tests
end

section
/-! The statements about elements as bytes (O22) and about address operands (O29). -/

namespace Sys2Proof.Machine

/-! ### What bytes denote -/

/-- The value of bytes read at a type is the number they denote, taken at that type (R8, R60). -/
theorem ofBytes_val (order : ByteOrder) (T : Ty) (bs : List Byte) (h : bs.length = T.size) :
    (TVal.ofBytes order T bs).val = wrapTo T (denoted order bs) := by
  rw [val_of_bits, ofBytes_bits order T bs h, bytesToNat_eq_denoted]
  rfl

/-- The value of an element of a line is the number its bytes denote, taken at its type (R28). -/
theorem elem_val (order : ByteOrder) (l : Line) (T : Ty) (k : Nat) :
    (elem order l T k).val = wrapTo T (denoted order (slice l (k * T.size) T.size)) :=
  ofBytes_val order T _ (slice_length _ _ _)

theorem State.dataBytes_eq_slice (s : State) (n : DReg) (p m : Nat) : s.dataBytes n p m = slice (s.d n).data p m := rfl

/-- The element that the offset selects begins at the offset aligned to the type (R27, D30). -/
theorem State.scalarPlace_eq (s : State) (T : Ty) (n : DReg) :
    s.scalarPlace T n = scalarIndex T (s.d n).addr * T.size := rfl

theorem State.scalar_val (s : State) (n : DReg) :
    (s.scalar n).val = wrapTo (s.typeOf n)
      (denoted s.config.byteOrder (s.dataBytes n (s.scalarPlace (s.typeOf n) n) (s.typeOf n).size)) := by
  rw [State.dataBytes_eq_slice, State.scalarPlace_eq]
  exact elem_val _ _ _ _

theorem State.lane_val (s : State) (n : DReg) (k : Nat) :
    (s.lane n k).val = wrapTo (s.typeOf n)
      (denoted s.config.byteOrder (s.dataBytes n (k * (s.typeOf n).size) (s.typeOf n).size)) := by
  rw [State.dataBytes_eq_slice]
  exact elem_val _ _ _ _

/-- The bytes written for an integer denote its pattern (R8, R60). -/
theorem denoted_bytesOfInt (order : ByteOrder) (T : Ty) (z : Int) : denoted order (bytesOfInt order T z) = patternOf T z := by
  rw [bytesOfInt, ← bytesToNat_eq_denoted, bytesToNat_natToBytes, pow256_size, Nat.mod_eq_of_lt (patternOf_lt T z)]

/-- Four bytes decode as the word they denote (R60, R90). -/
theorem decodeBytes_four (order : ByteOrder) (b0 b1 b2 b3 : Byte) :
    decodeBytes order [b0, b1, b2, b3] = decode (BitVec.ofNat 32 (denoted order [b0, b1, b2, b3])) := by
  rw [decodeBytes, bytesToNat_eq_denoted]

/-- Settles O22: reading and writing by significance (`leNat`, `leBytes`) agrees with the sum of weights. -/
theorem elementsAreReadInByteOrder : Obligations.ElementsAreReadInByteOrder :=
  ⟨fun s n => ⟨s.scalar_val n, fun k _ => s.lane_val n k⟩,
    fun order T z => ⟨bytesOfInt_length order T z, denoted_bytesOfInt order T z⟩, decodeBytes_four⟩

/-! ### Operations on sources cast to the destination's type -/

/-- At type `T` the operation `op` on typed values is `g` on the integers they denote (R120, D4). -/
def ComputesAt (T : Ty) (op : TVal → TVal → TVal) (g : Int → Int → Int) : Prop :=
  ∀ v w : TVal, Computes (op (cast T v) (cast T w)) T (g (wrapTo T v.val) (wrapTo T w.val))

theorem computesAt_add (T : Ty) : ComputesAt T TVal.add fun x y => x + y := computes_add T

theorem computesAt_shl (T : Ty) : ComputesAt T TVal.shl fun x y => x * 2 ^ patternOf T y := computes_shl T

section
variable {s : State} {i : Instr} {op : TVal → TVal → TVal} {g : Int → Int → Int} {a c : DReg}

/-- A scalar form of Group 0 gives `g` of its sources, for any first source `x` (R120). -/
theorem ComputesAt.givesScalar (hg : ComputesAt (s.typeOf a) op g) {x : TVal} (he : exec i s = scalarOp op a x c s) :
    GivesScalar s i a (g (wrapTo (s.typeOf a) x.val) (s.scalarVal (s.typeOf a) c)) :=
  scalarOp_gives he (hg x (s.scalar c))

/-- A vector form of Group 0 gives `g` of its sources in every element, for any first source `x` (R120). -/
theorem ComputesAt.givesVector (hg : ComputesAt (s.typeOf a) op g) {x : Nat → TVal}
    (he : exec i s = vectorOp op a x c s) :
    GivesVector s i a fun k => g (wrapTo (s.typeOf a) (x k).val) (s.laneVal (s.typeOf a) c k) :=
  vectorOp_gives he fun k _ => hg (x k) (s.lane c k)

end

/-! ### Guards of Group 0, by register -/

/-- The guard of R121 lets registers of no 64-bit type pass. -/
theorem State.No64.unless64 {s : State} {regs : List DReg} (h : s.No64 regs) (rest : Result) :
    Machine.unless64 (regs.map s.typeOf) s rest = rest := by
  refine unless64_of (fun X hX => ?_) rest
  obtain ⟨n, hn, rfl⟩ := List.mem_map.1 hX
  exact h n hn

/-- The guard of U7 lets registers with elements of dA's size pass. -/
theorem State.SameSize.sameSize {s : State} {a : DReg} {regs : List DReg} (h : s.SameSize a regs) (rest : Result) :
    Machine.sameSize (regs.map s.typeOf) (s.typeOf a) rest = rest := by
  refine sameSize_of (fun X hX => ?_) rest
  obtain ⟨n, hn, rfl⟩ := List.mem_map.1 hX
  exact h n hn

/-! ### Address operands -/

/-- `dB.addr` is the address aligned to dB's type, as a number (R9, R133). -/
theorem dlarAddress_val (s : State) (b : DReg) :
    (dlarAddress s b).val = (alignNat (s.typeOf b) (s.d b).addr.toNat : Nat) := by
  rw [dlarAddress, ofU32_val, align_toNat]

/-- `iB.addr` is the address aligned to four, as a number (R9, R135). -/
theorem ilarAddress_val (s : State) (b : IReg) : (ilarAddress s b).val = (alignNat .u32 (s.i b).addr.toNat : Nat) := by
  rw [ilarAddress, ofU32_val, align_toNat]

section
variable {s : State} {i : Instr} {op : TVal → TVal → TVal} {g : Int → Int → Int} {a b c : DReg}

/-- A scalar form with `dB.addr` as its first source (R133, R134). -/
theorem dlarAddress_givesScalar (hg : ComputesAt (s.typeOf a) op g) (h64 : s.No64 [a, c])
    (he : exec i s = unless64 [s.typeOf a, s.typeOf c] s (scalarOp op a (dlarAddress s b) c s)) :
    GivesScalar s i a
      (g (wrapTo (s.typeOf a) (alignNat (s.typeOf b) (s.d b).addr.toNat : Nat)) (s.scalarVal (s.typeOf a) c)) := by
  rw [← dlarAddress_val]
  exact hg.givesScalar (he.trans (h64.unless64 _))

/-- A vector form with `dB.addr` as the first source of every element (R133, R134). -/
theorem dlarAddress_givesVector (hg : ComputesAt (s.typeOf a) op g) (h64 : s.No64 [a, c]) (hs : s.SameSize a [c])
    (he : exec i s = unless64 [s.typeOf a, s.typeOf c] s
      (sameSize [s.typeOf c] (s.typeOf a) (vectorOp op a (fun _ => dlarAddress s b) c s))) :
    GivesVector s i a fun k =>
      g (wrapTo (s.typeOf a) (alignNat (s.typeOf b) (s.d b).addr.toNat : Nat)) (s.laneVal (s.typeOf a) c k) := by
  rw [← dlarAddress_val]
  exact hg.givesVector ((he.trans (h64.unless64 _)).trans (hs.sameSize _))

end

theorem addIaddrS_gives (s : State) (a : DReg) (i : IReg) (c : DReg) : GivesScalar s (.addIaddrS a i c) a
    (wrapTo (s.typeOf a) (alignNat .u32 (s.i i).addr.toNat : Nat) + s.scalarVal (s.typeOf a) c) := by
  rw [← ilarAddress_val]
  exact (computesAt_add _).givesScalar rfl

theorem addIaddrV_gives {s : State} {a c : DReg} (i : IReg) (hs : s.SameSize a [c]) :
    GivesVector s (.addIaddrV a i c) a fun k =>
      wrapTo (s.typeOf a) (alignNat .u32 (s.i i).addr.toNat : Nat) + s.laneVal (s.typeOf a) c k := by
  rw [← ilarAddress_val]
  exact (computesAt_add _).givesVector (x := fun _ => ilarAddress s i) (hs.sameSize _)

/-- Settles O29: each form is a guarded `scalarOp` or `vectorOp` with the aligned address as first source. -/
theorem addressOperandResult : Obligations.AddressOperandResult := by
  intro s a b c i
  refine ⟨fun h64 p hp => ?_, addIaddrS_gives s a i c, addIaddrV_gives i⟩
  obtain rfl | rfl : p = _ ∨ p = _ := by simpa using hp
  · exact ⟨dlarAddress_givesScalar (computesAt_add _) h64 rfl,
      fun hs => dlarAddress_givesVector (computesAt_add _) h64 hs rfl⟩
  · exact ⟨dlarAddress_givesScalar (computesAt_shl _) h64 rfl,
      fun hs => dlarAddress_givesVector (computesAt_shl _) h64 hs rfl⟩

end Sys2Proof.Machine
end

section
/-! The statements about reset and about what a step does around an instruction (O6, O7, O13 to O17). -/

namespace Sys2Proof.Machine

/-! ### The state after reset -/

/-- After reset a DLAR is a `d0` or an undefined one. -/
theorem reset_dlar (k : PhysReg) : State.reset.dlar k = zeroDlar ∨ State.reset.dlar k = launchDlar := by
  unfold State.dlar
  split
  · exact .inl rfl
  · next hk =>
    have h0 : (0 : Nat) ≠ k.val := fun h => hk (by simp [isZeroReg, ← h])
    have h64 : (64 : Nat) ≠ k.val := fun h => hk (by simp [isZeroReg, ← h])
    exact .inr (by simp [State.reset, h0, h64])

theorem reset_ilar (k : PhysReg) : State.reset.ilar k = zeroIlar ∨ State.reset.ilar k = launchIlar := by
  unfold State.ilar
  split
  · exact .inl rfl
  · next hk =>
    have h0 : (0 : Nat) ≠ k.val := fun h => hk (by simp [isZeroReg, ← h])
    have h64 : (64 : Nat) ≠ k.val := fun h => hk (by simp [isZeroReg, ← h])
    by_cases h127 : 127 = k.val
    · exact .inl (by simp [State.reset, ← h127])
    · exact .inr (by simp [State.reset, h0, h64, h127])

theorem reset_ipc : State.reset.ipc = zeroIlar := by
  simp [State.ipc, State.ilar, State.reset, ipcOf, isZeroReg]

theorem reset_data (k : PhysReg) : (State.reset.dlar k).data = zeroLine ∧ (State.reset.dlar k).dirty = false := by
  rcases reset_dlar k with h | h <;> rw [h] <;> exact ⟨rfl, rfl⟩

/-- Settles O6: reset defines these registers, and memory after it lists nothing. -/
theorem resetLeavesWhatTheSpecGives : Obligations.ResetLeavesWhatTheSpecGives := by
  refine ⟨rfl, ?_, fun j _ => ?_, rfl, rfl, fun k hk => ⟨dlar_zero _ hk, ilar_zero _ hk⟩⟩
  · rw [State.pc, reset_ipc]; rfl
  · rw [reset_ipc]; exact byteAt_zeroLine j

theorem reset_ilarsAligned : State.reset.ilarsAligned := by
  intro k
  rcases reset_ilar k with h | h <;> rw [h] <;> rfl

theorem reset_zeroRegs : State.reset.zeroRegs := by
  simp [State.zeroRegs, State.reset]

theorem reset_shared : State.reset.shared := by
  intro b j k _ _
  obtain ⟨hj, hj'⟩ := reset_data j
  obtain ⟨hk, hk'⟩ := reset_data k
  exact ⟨hj.trans hk.symm, hj'.trans hk'.symm⟩

theorem reset_cleanLines : State.reset.cleanLines := by
  intro b k _ _ j _
  rw [(reset_data k).1, byteAt_zeroLine]
  rfl

/-- Settles O7: every DLAR after reset is clean and zero, as memory is, and every address is 0 or the launch address. -/
theorem resetMeetsTheInvariants : Obligations.ResetMeetsTheInvariants :=
  ⟨rfl, reset_ilarsAligned, reset_zeroRegs, reset_shared, reset_cleanLines⟩

/-! ### The branches of a step -/

theorem step_interrupt {s : State} (h : s.interruptDue = true) : step s = .next (s.tick.enter 0x0) := by
  rw [step, stepOnce, if_pos h]

@[simp] theorem iv_tick (s : State) (m : Mode) : s.tick.iv m = s.iv m := by cases m <;> rfl

section
variable {s : State} {rest : State → Result}

theorem withIpcLine_held (hv : s.iv s.mode = true) : withIpcLine s rest = rest s := by rw [withIpcLine, if_pos hv]

theorem withIpcLine_found (hv : s.iv s.mode = false) {l : Line} (hl : s.ilookup (lineOf s.pc) (ipcOf s.mode) = some l) :
    withIpcLine s rest = rest (s.withLine l) := by
  rw [withIpcLine, if_neg (by simp [hv]), hl]

theorem withIpcLine_userMiss (hv : s.iv s.mode = false) (hl : s.ilookup (lineOf s.pc) (ipcOf s.mode) = none)
    (hm : s.mode = .user) : withIpcLine s rest = .next (s.enter 0x15) := by
  rw [withIpcLine, if_neg (by simp [hv]), hl]
  simp only [hm]

theorem withIpcLine_supervisorMiss (hv : s.iv s.mode = false) (hl : s.ilookup (lineOf s.pc) (ipcOf s.mode) = none)
    (hm : s.mode = .supervisor) : withIpcLine s rest = .fault .supervisorImiss := by
  rw [withIpcLine, if_neg (by simp [hv]), hl]
  simp only [hm]

end

theorem step_noInterrupt {s : State} (hd : s.ie = false ∨ s.irq = false) : step s = withIpcLine s.tick runDecoded := by
  rw [step, stepOnce, (notDue_iff s).2 hd]
  rfl

theorem step_lineHeld {s : State} (hd : s.ie = false ∨ s.irq = false) (hv : s.iv s.mode = true) :
    step s = runDecoded s.tick :=
  (step_noInterrupt hd).trans (withIpcLine_held ((iv_tick s _).trans hv))

/-- Settles O15: the request is sampled before anything else. -/
theorem interruptIsTakenFirst : Obligations.InterruptIsTakenFirst := by
  intro s hie hirq
  exact ⟨_, step_interrupt (by rw [State.interruptDue, hie, hirq]; rfl), enter_entered s.tick 0x0⟩

/-- The four bytes at the program counter are those that the step decodes (R35). -/
theorem decoded_tick (s : State) : s.tick.decoded = decodeBytes s.config.byteOrder
    ((List.range 4).map fun j => byteAt s.ipc.data (4 * (s.pc.toNat % 128 / 4) + j)) := rfl

/-- Settles O13: with no interrupt and the line there, the step is `runDecoded` at those bytes. -/
theorem stepRunsTheDecodedInstruction : Obligations.StepRunsTheDecodedInstruction := by
  intro s i hd hv _ hi
  rw [step_lineHeld hd hv, runDecoded, decoded_tick, hi]
  rfl

/-- Settles O17: the other two answers of the decoder to the same bytes. -/
theorem undefinedWordRaisesExceptionTwo : Obligations.UndefinedWordRaisesExceptionTwo := by
  intro s hd hv
  rw [step_lineHeld hd hv, runDecoded, decoded_tick]
  refine ⟨fun hu => ?_, fun why hr => ?_⟩
  · rw [hu]; exact ⟨_, rfl, raise_raises s.tick 0x2⟩
  · rw [hr]

/-! ### Finding the line of the `ipc` -/

theorem ilookup_eq_none {s : State} {b : LineNo} {x : PhysReg} (h : ∀ k, ¬ s.HasInstrLine b x k) : s.ilookup b x = none := by
  cases hl : s.ilookup b x with
  | none => rfl
  | some l =>
    obtain ⟨k, hk, _⟩ := ilookup_some hl
    exact absurd hk (h k)

theorem ilookup_eq_some {s : State} {b : LineNo} {x k : PhysReg} (hk : s.HasInstrLine b x k)
    (hfirst : ∀ j, j < k → ¬ s.HasInstrLine b x j) : s.ilookup b x = some (s.ilar k).data := by
  cases hl : s.ilookup b x with
  | none => exact absurd hk (ilookup_none hl k)
  | some l =>
    obtain ⟨j, hj, hjfirst, rfl⟩ := ilookup_some hl
    have : j = k := le_antisymm (not_lt.1 fun h => hjfirst k h hk) (not_lt.1 fun h => hfirst j h hj)
    rw [this]

theorem withLine_lineTaken (s : State) (l : Line) : LineTaken s (s.withLine l) l := by
  refine ⟨(sameRest_setIlar _ _ _).trans (sameRest_setIv _ _ _), fun k => ?_, fun a => ?_, ?_, fun k hk => ?_, ?_,
    fun m hm => ?_⟩ <;> rw [State.withLine]
  · rw [dlar_setIv, dlar_setIlar]
  · simp
  · rw [ilar_setIv, ilar_setIlar, if_pos ⟨rfl, ipcOf_nonzero _⟩]
  · rw [ilar_setIv, ilar_setIlar, if_neg fun h => hk h.1]
  · rw [iv_setIv, if_pos rfl]
  · rw [iv_setIv, if_neg hm, iv_setIlar]

theorem tick_withLine (s : State) (l : Line) : s.tick.withLine l = (s.withLine l).tick := by
  have hz : isZeroReg (ipcOf s.mode) = false := ipcOf_nonzero s.mode
  have hm : s.tick.mode = s.mode := rfl
  unfold State.withLine State.setIlar
  rw [hm, hz]
  cases s.mode <;> rfl

/-- Settles O14: both steps decode and run from the state in which the line is there. -/
theorem missingLineComesFromAnotherIlar : Obligations.MissingLineComesFromAnotherIlar := by
  intro s k hd hv hk hfirst
  have ht := withLine_lineTaken s (s.ilar k).data
  have hd' : (s.withLine (s.ilar k).data).ie = false ∨ (s.withLine (s.ilar k).data).irq = false := by
    rwa [State.irq, ht.rest.ie, ht.rest.irqScript, ht.rest.steps]
  have hv' : (s.withLine (s.ilar k).data).iv (s.withLine (s.ilar k).data).mode = true := by
    rw [ht.rest.mode]; exact ht.iv
  have hl : s.tick.ilookup (lineOf s.tick.pc) (ipcOf s.tick.mode) = some (s.ilar k).data := ilookup_eq_some hk hfirst
  refine ⟨_, ht, ?_⟩
  rw [step_noInterrupt hd, withIpcLine_found ((iv_tick s _).trans hv) hl, step_lineHeld hd' hv', tick_withLine]

/-- Settles O16: the search for the line finds nothing, and the mode decides. -/
theorem lineInNoIlarIsAMiss : Obligations.LineInNoIlarIsAMiss := by
  intro s hd hv hno
  have hv' : s.tick.iv s.tick.mode = false := (iv_tick s _).trans hv
  rw [step_noInterrupt hd]
  exact ⟨fun hm => ⟨_, withIpcLine_userMiss hv' (ilookup_eq_none hno) hm, enter_entered s.tick 0x15⟩,
    fun hm => withIpcLine_supervisorMiss hv' (ilookup_eq_none hno) hm⟩

end Sys2Proof.Machine
end

section
/-! The statements about jumps and about `swi` (O43, O58). -/

namespace Sys2Proof.Machine

/-! ### Conditions and jumps of Group 8 -/

theorem nonZeroScalar_iff (s : State) (a : DReg) : nonZeroScalar s a = true ↔ s.NonZeroScalar a := by
  simp [nonZeroScalar, State.NonZeroScalar]

theorem nonZeroVector_iff (s : State) (a : DReg) : nonZeroVector s a = true ↔ s.NonZeroVector a := by
  simp only [nonZeroVector, State.NonZeroVector, List.any_eq_true, bne_iff_ne, List.mem_iff_getElem,
    line_toList_length]
  constructor
  · rintro ⟨_, ⟨j, hj, rfl⟩, hb⟩
    exact ⟨j, hj, by rwa [byteAt_lt _ hj]⟩
  · rintro ⟨j, hj, hb⟩
    exact ⟨_, ⟨j, hj, rfl⟩, by rwa [byteAt_lt _ hj] at hb⟩

theorem bankReg_eq_ipcOf {m : Mode} {b : Fin 64} (h : bankReg m b = ipcOf m) : b = 63 := by
  apply Fin.ext
  have := congrArg Fin.val h
  cases m <;> simp [bankReg, ipcOf] at this <;> omega

/-- A jump leaves every ILAR that it can name but the `ipc` (R246). -/
theorem jump_i (s : State) (b : IReg) (n : Nat) (hb : b ≠ 63) : (s.jump b n).i b = s.i b := by
  have hj := jump_jumps s b n
  rw [State.i, State.reg, hj.rest.mode]
  exact hj.ilars _ fun h => hb (bankReg_eq_ipcOf h)

theorem jump_pc (s : State) (b : IReg) (n : Nat) : (s.jump b n).pc = lineAddr (lineOf (s.i b).addr) (4 * n) := by
  rw [pc_eq, (jump_jumps s b n).rest.mode, State.jump, ilar_setIv, ilar_setIlar, if_pos ⟨rfl, ipcOf_nonzero _⟩]

/-- What O43 says of an outcome that is a jump through `i[b]` to instruction `n`. -/
theorem jump_staysInLine {s : State} {b : IReg} {n : Nat} {r : Result} (h : r = .next (s.jump b n)) :
    ∃ t, r = .next t ∧ Jumps s t b n ∧ (b ≠ 63 → t.i b = s.i b) ∧
      (n < 32 → lineOf t.pc = lineOf (s.i b).addr ∧ t.pc.toNat % 128 = 4 * n) := by
  refine ⟨_, h, jump_jumps s b n, jump_i s b n, fun hn => ?_⟩
  have hn' : 4 * n < 128 := by omega
  rw [jump_pc]
  exact ⟨lineOf_lineAddr _ hn', offsetOf_lineAddr _ hn'⟩

section
variable (s : State) (a : DReg) (b : IReg) (i j : Nat)

theorem exec_selS : exec (.selS a b i j) s = .next (s.jump b (if nonZeroScalar s a then i else j)) := rfl
theorem exec_selV : exec (.selV a b i j) s = .next (s.jump b (if nonZeroVector s a then i else j)) := rfl
theorem exec_jzS : exec (.jzS a b i) s = if nonZeroScalar s a then fallThrough s else .next (s.jump b i) := rfl
theorem exec_jzV : exec (.jzV a b i) s = if nonZeroVector s a then fallThrough s else .next (s.jump b i) := rfl
theorem exec_jnzS : exec (.jnzS a b i) s = if nonZeroScalar s a then .next (s.jump b i) else fallThrough s := rfl
theorem exec_jnzV : exec (.jnzV a b i) s = if nonZeroVector s a then .next (s.jump b i) else fallThrough s := rfl

end

/-- Settles O43: by its condition each instruction is `jump` or `fallThrough`. -/
theorem takenJumpsStayInTheLineOfTheirIlar : Obligations.TakenJumpsStayInTheLineOfTheirIlar := by
  intro s a b i j
  have hs := nonZeroScalar_iff s a
  have hv := nonZeroVector_iff s a
  simp only [List.forall_mem_cons, List.not_mem_nil, false_imp_iff, implies_true, and_true, ← hs, ← hv]
  refine ⟨⟨?_, ?_, ?_, ?_, ?_, ?_, ?_, ?_⟩, ?_, ?_, ?_, ?_⟩ <;> intro h
  · exact jump_staysInLine (by rw [exec_selS, if_pos h])
  · exact jump_staysInLine (by rw [exec_selS, if_neg h])
  · exact jump_staysInLine (by rw [exec_selV, if_pos h])
  · exact jump_staysInLine (by rw [exec_selV, if_neg h])
  · exact jump_staysInLine (by rw [exec_jzS, if_neg h])
  · exact jump_staysInLine (by rw [exec_jzV, if_neg h])
  · exact jump_staysInLine (by rw [exec_jnzS, if_pos h])
  · exact jump_staysInLine (by rw [exec_jnzV, if_pos h])
  · exact ⟨_, by rw [exec_jzS, if_pos h]; rfl, advance_fallsThrough s⟩
  · exact ⟨_, by rw [exec_jzV, if_pos h]; rfl, advance_fallsThrough s⟩
  · exact ⟨_, by rw [exec_jnzS, if_neg h]; rfl, advance_fallsThrough s⟩
  · exact ⟨_, by rw [exec_jnzV, if_neg h]; rfl, advance_fallsThrough s⟩

/-- Settles O58: `swi` is `raise` after the four copies. -/
theorem swiCopiesThenRaises : Obligations.SwiCopiesThenRaises :=
  fun _ _ _ _ _ => ⟨_, rfl, raise_raises _ 0x4⟩

end Sys2Proof.Machine
end

section
/-! The statements about what every step keeps of the registers and of the rest of the state (O9, O10, O18 to O21). -/

namespace Sys2Proof.Machine

/-! ### The updates that the operations on DLARs are made of -/

/-- `E` is `D` but for the data and the dirty flag. -/
structure SameHead (D E : Dlar) : Prop where
  addr : E.addr = D.addr
  type : E.type = D.type
  tag : E.tag = D.tag
  refCount : E.refCount = D.refCount

theorem SameHead.refl (D : Dlar) : SameHead D D := ⟨rfl, rfl, rfl, rfl⟩

theorem SameHead.trans {D E F : Dlar} (h : SameHead D E) (g : SameHead E F) : SameHead D F :=
  ⟨g.addr.trans h.addr, g.type.trans h.type, g.tag.trans h.tag, g.refCount.trans h.refCount⟩

theorem sameHead_mapHolders (s : State) (b : LineNo) {f : Dlar → Dlar} (hf : ∀ D, SameHead D (f D)) (k : PhysReg) :
    SameHead (s.dlar k) ((s.mapHolders b f).dlar k) := by
  rw [dlar_mapHolders]
  split
  · exact hf _
  · exact .refl _

/-- `P` is kept by the updates that the operations on DLARs (R65 to R71) are made of, where only the DLARs in `ok` may be
given another address or type. -/
structure KeptByDataUpdates (P : State → Prop) (ok : PhysReg → Prop) : Prop where
  mem : ∀ s m, P s → P { s with mem := m }
  holders : ∀ s b f, (∀ D, SameHead D (f D)) → P s → P (s.mapHolders b f)
  set : ∀ s k D, ok k → P s → P (s.setDlar k D)

namespace KeptByDataUpdates

variable {P : State → Prop} {ok : PhysReg → Prop} {s : State}

theorem write (K : KeptByDataUpdates P ok) (k : PhysReg) (p : Nat) (bs : List Byte) (h : P s) : P (s.writeBytes k p bs) := by
  unfold State.writeBytes
  split
  · exact h
  · exact K.holders _ _ _ (fun _ => ⟨rfl, rfl, rfl, rfl⟩) h

theorem load (K : KeptByDataUpdates P ok) {k : PhysReg} (hk : ok k) (ea : Addr) (T : Ty) (h : P s) :
    P (s.dload k ea T) := by
  have hr : P (s.release k) := by
    unfold State.release
    split
    · exact K.mem _ _ h
    · exact h
  unfold State.dload
  split
  · exact h
  · split
    · exact K.set _ _ _ hk h
    · exact K.set _ _ _ hk hr

theorem store (K : KeptByDataUpdates P ok) (ea : Addr) (v : TVal) (h : P s) : P (s.dataWrite ea v) := by
  unfold State.dataWrite
  split
  · exact K.holders _ _ _ (fun _ => ⟨rfl, rfl, rfl, rfl⟩) h
  · exact K.mem _ _ h

theorem flush (K : KeptByDataUpdates P ok) (k : PhysReg) (h : P s) : P (s.dflush k) := by
  unfold State.dflush
  split
  · exact h
  · exact K.holders _ _ _ (fun _ => ⟨rfl, rfl, rfl, rfl⟩) (K.mem _ _ h)

theorem reload (K : KeptByDataUpdates P ok) (k : PhysReg) (h : P s) : P (s.dreload k) := by
  unfold State.dreload
  split
  · exact h
  · exact K.holders _ _ _ (fun _ => ⟨rfl, rfl, rfl, rfl⟩) h

end KeptByDataUpdates

/-! ### Invariants of the register files -/

/-- `Inv` is about the register files alone, and is kept by every update of them that leaves an aligned ILAR aligned. -/
structure RegisterInvariant (Inv : State → Prop) : Prop where
  congr : ∀ s t : State, t.ilars = s.ilars → t.dlars = s.dlars → Inv s → Inv t
  holders : ∀ s b f, Inv s → Inv (s.mapHolders b f)
  setDlar : ∀ s k D, Inv s → Inv (s.setDlar k D)
  setIlar : ∀ s k I, ((s.ilar k).addr.toNat % 4 = 0 → I.addr.toNat % 4 = 0) → Inv s → Inv (s.setIlar k I)

theorem lineAddr_aligned (b : LineNo) (n : Nat) : (lineAddr b (4 * n)).toNat % 4 = 0 := by
  rw [lineAddr, BitVec.toNat_ofNat]
  omega

theorem validate_files (s : State) (k : PhysReg) : (s.validate k).ilars = s.ilars ∧ (s.validate k).dlars = s.dlars := by
  unfold State.validate
  split
  · simp
  · split <;> simp

namespace RegisterInvariant

variable {Inv : State → Prop} {s : State}

theorem data (R : RegisterInvariant Inv) : KeptByDataUpdates Inv fun _ => True where
  mem s _ := R.congr s _ rfl rfl
  holders s b f _ := R.holders s b f
  set s k D _ := R.setDlar s k D

theorem setIv (R : RegisterInvariant Inv) (m : Mode) (b : Bool) (h : Inv s) : Inv (s.setIv m b) :=
  R.congr s _ (by simp) (by simp) h

theorem validate (R : RegisterInvariant Inv) (k : PhysReg) (h : Inv s) : Inv (s.validate k) :=
  R.congr s _ (validate_files s k).1 (validate_files s k).2 h

theorem withLine (R : RegisterInvariant Inv) (l : Line) (h : Inv s) : Inv (s.withLine l) :=
  R.setIv _ _ (R.setIlar _ _ _ id h)

theorem advance (R : RegisterInvariant Inv) (h : Inv s) : Inv s.advance := by
  have next : Inv (s.setIlar (ipcOf s.mode) { s.ipc with addr := s.pc + 4 }) :=
    R.setIlar _ _ _ (fun ha => by rw [pc_eq, BitVec.toNat_add]; simp; omega) h
  unfold State.advance
  dsimp only
  split
  · exact next
  · exact R.setIv _ _ next

theorem jump (R : RegisterInvariant Inv) (b : IReg) (n : Nat) (h : Inv s) : Inv (s.jump b n) :=
  R.setIv _ _ (R.setIlar _ _ _ (fun _ => lineAddr_aligned _ n) h)

theorem enter (R : RegisterInvariant Inv) (c : BitVec 32) (h : Inv s) : Inv (s.enter c) := by
  unfold State.enter
  exact R.setIv _ _ (R.setIlar _ _ _ (fun _ => rfl) (R.congr s _ rfl rfl h))

theorem raise (R : RegisterInvariant Inv) (c : BitVec 32) (h : Inv s) : Inv (s.raise c) := by
  unfold State.raise
  split
  · exact R.enter c (R.advance h)
  · exact R.enter c h

theorem ifill (R : RegisterInvariant Inv) (k : PhysReg) (a : Addr) (h : Inv s) : Inv (s.ifill k a) := by
  unfold State.ifill
  split
  · exact h
  · exact R.validate _ (R.setIlar _ _ _ (fun _ => by rw [instrAddr_toNat]; omega) h)

theorem ireload (R : RegisterInvariant Inv) (k : PhysReg) (h : Inv s) : Inv (s.ireload k) := by
  unfold State.ireload
  split
  · exact h
  · exact R.validate _ (R.setIlar _ _ _ id h)

theorem keeps (R : RegisterInvariant Inv) (i : Instr) (h : Inv s) : Keeps i s Inv Inv fun _ => True where
  start := h
  reg _ _ _ := trivial
  bank _ _ _ := trivial
  write _ k p bs h _ := R.data.write k p bs h
  type _ _ _ h := R.setDlar _ _ _ h
  load _ _ ea T h hk := R.data.load hk ea T h
  store _ ea v _ h := R.data.store ea v h
  flush _ k h _ := R.data.flush k h
  reload _ k h _ := R.data.reload k h
  fill _ k a h _ := R.ifill k a h
  ireload _ k h _ := R.ireload k h
  ie _ _ := R.congr s _ rfl rfl h
  xct _ _ _ _ := R.congr s _ rfl rfl h
  swiarg0 _ _ := R.congr s _ rfl rfl h
  swiarg1 _ _ := R.congr s _ rfl rfl h
  swiarg2 _ _ := R.congr s _ rfl rfl h
  swiarg3 _ _ := R.congr s _ rfl rfl h
  input a T _ _ _ := R.congr (s.setType a T) _ rfl rfl (R.setDlar _ _ _ h)
  output a T _ _ _ := R.congr (s.setType a T) _ rfl rfl (R.setDlar _ _ _ h)
  next _ h := R.advance h
  jump b n := R.jump b n h
  raise c _ := R.raise c h
  swi _ _ _ _ := R.raise _ (R.congr s _ rfl rfl h)
  returns _ _ _ _ := R.congr s _ rfl rfl h

theorem step (R : RegisterInvariant Inv) {t : State} (hs : Inv s) (h : Machine.step s = .next t) : Inv t :=
  step_keeps (fun s => R.congr s _ rfl rfl) (fun _ l => R.withLine l) (fun _ c => R.enter c) (fun _ c => R.raise c)
    (fun i _ _ h => exec_keeps (R.keeps i h)) hs h

end RegisterInvariant

theorem ilarsAligned_invariant : RegisterInvariant State.ilarsAligned where
  congr _ _ hi _ h k := by rw [ilar_congr hi]; exact h k
  holders _ _ _ h k := by rw [ilar_mapHolders]; exact h k
  setDlar _ _ _ h k := by rw [ilar_setDlar]; exact h k
  setIlar s k I hI h j := by
    rw [ilar_setIlar]
    split
    · exact hI (h k)
    · exact h j

/-- Settles O9: every instruction address that the model writes is a multiple of 4, or follows one by 4. -/
theorem stepKeepsInstructionAddressesAligned : Obligations.StepKeepsInstructionAddressesAligned :=
  fun _ _ hs h => ilarsAligned_invariant.step hs h

theorem setDlar_zeroReg {s : State} {k j : PhysReg} (D : Dlar) (hj : isZeroReg j = true) :
    (s.setDlar k D).dlars[j] = s.dlars[j] := by
  unfold State.setDlar
  split
  · rfl
  · next hk =>
    have : k.val ≠ j.val := fun h => hk (Fin.ext h ▸ hj)
    simp [this]

theorem setIlar_zeroReg {s : State} {k j : PhysReg} (I : Ilar) (hj : isZeroReg j = true) :
    (s.setIlar k I).ilars[j] = s.ilars[j] := by
  unfold State.setIlar
  split
  · rfl
  · next hk =>
    have : k.val ≠ j.val := fun h => hk (Fin.ext h ▸ hj)
    simp [this]

theorem mapHolders_zeroReg (s : State) (b : LineNo) (f : Dlar → Dlar) {j : PhysReg} (hj : isZeroReg j = true) :
    (s.mapHolders b f).dlars[j] = s.dlars[j] := by
  have : s.holds b j = false := by simp [State.holds, hj]
  simp [State.mapHolders, this]

theorem zeroRegs_congr {s t : State} (hd : ∀ j : PhysReg, isZeroReg j = true → t.dlars[j] = s.dlars[j])
    (hi : ∀ j : PhysReg, isZeroReg j = true → t.ilars[j] = s.ilars[j]) (h : s.zeroRegs) : t.zeroRegs := by
  obtain ⟨d0, d64, i0, i64⟩ := h
  exact ⟨(hd 0 rfl).trans d0, (hd 64 rfl).trans d64, (hi 0 rfl).trans i0, (hi 64 rfl).trans i64⟩

theorem zeroRegs_invariant : RegisterInvariant State.zeroRegs where
  congr s t hi hd := zeroRegs_congr (fun _ _ => by rw [hd]) (fun _ _ => by rw [hi])
  holders s b f := zeroRegs_congr (fun _ => mapHolders_zeroReg s b f) (fun _ _ => rfl)
  setDlar s k D := zeroRegs_congr (fun _ => setDlar_zeroReg D) (fun _ _ => by simp)
  setIlar s k I _ := zeroRegs_congr (fun _ _ => by simp) (fun _ => setIlar_zeroReg I)

/-- Settles O10: each of the three updates of a register file passes over `d0` and `i0` of both banks. -/
theorem stepKeepsZeroRegisters : Obligations.StepKeepsZeroRegisters :=
  fun _ _ hs h => zeroRegs_invariant.step hs h

/-! ### The mode, the exception type, the parameters and the log of IO accesses -/

/-- The mode, `xct`, the parameters of the implementation and the log of IO accesses: what O18, O19 and O21 are about. -/
structure SameControl (s t : State) : Prop where
  config : t.config = s.config
  mode : t.mode = s.mode
  xct : t.xct = s.xct
  ioLog : t.ioLog = s.ioLog

theorem SameRest.control {s t : State} (h : SameRest s t) : SameControl s t := ⟨h.config, h.mode, h.xct, h.ioLog⟩

/-- What is left to show of an instruction for a `P` that is about the mode, `xct`, the parameters and the log alone. -/
structure KeepsControl (i : Instr) (s : State) (P Q : State → Prop) : Prop where
  congr : ∀ u t, SameControl u t → P u → P t
  start : P s
  xct : ∀ a v, i = .cpyToXct a → s.mode = .supervisor → P { s with xct := v }
  io : ∀ t e, field (encode i) 31 28 = 11 → SameControl { s with ioLog := s.ioLog ++ [e] } t → P t
  done : ∀ u, P u → Q u
  raise : ∀ u (c : BitVec 32), c.toNat ≤ 0x15 → P u → Q (u.raise c)
  returns : ∀ a b, s.mode = .supervisor →
    ((i = .retiS a ∨ i = .retxS a) ∧ nonZeroScalar s a = true) ∨ ((i = .retiV a ∨ i = .retxV a) ∧ nonZeroVector s a = true) →
    Q ({ s with ie := b }.returnToUser)

namespace KeepsControl

variable {i : Instr} {s t : State} {P Q : State → Prop}

theorem rest (K : KeepsControl i s P Q) {u : State} (h : SameRest u t) : P u → P t := K.congr u t h.control

theorem data (K : KeepsControl i s P Q) : KeptByDataUpdates P fun _ => True where
  mem u m := K.rest (sameRest_mem u m)
  holders u b f _ := K.rest (sameRest_mapHolders u b f)
  set u k D _ := K.rest (sameRest_setDlar u k D)

theorem keeps (K : KeepsControl i s P Q) : Keeps i s P Q fun _ => True where
  start := K.start
  reg _ _ _ := trivial
  bank _ _ _ := trivial
  write _ k p bs h _ := K.data.write k p bs h
  type u n T := K.rest (setType_typeSet u n T).rest
  load _ _ ea T h hk := K.data.load hk ea T h
  store _ ea v _ h := K.data.store ea v h
  flush _ k h _ := K.data.flush k h
  reload _ k h _ := K.data.reload k h
  fill u k a h _ := K.rest (ifill_filled u k a).rest h
  ireload u k h _ := K.rest (ireload_reloaded u k).rest h
  ie _ _ := K.congr s _ ⟨rfl, rfl, rfl, rfl⟩ K.start
  xct := K.xct
  swiarg0 _ _ := K.congr s _ ⟨rfl, rfl, rfl, rfl⟩ K.start
  swiarg1 _ _ := K.congr s _ ⟨rfl, rfl, rfl, rfl⟩ K.start
  swiarg2 _ _ := K.congr s _ ⟨rfl, rfl, rfl, rfl⟩ K.start
  swiarg3 _ _ := K.congr s _ ⟨rfl, rfl, rfl, rfl⟩ K.start
  input a T ea n h :=
    have := (setType_typeSet s a T).rest
    K.io _ (.read ea n) h ⟨this.config, this.mode, this.xct, congrArg (· ++ [IoEvent.read ea n]) this.ioLog⟩
  output a T ea bs h :=
    have := (setType_typeSet s a T).rest
    K.io _ (.write ea bs) h ⟨this.config, this.mode, this.xct, congrArg (· ++ [IoEvent.write ea bs]) this.ioLog⟩
  next u h := K.done _ (K.rest (advance_fallsThrough u).rest h)
  jump b n := K.done _ (K.rest (jump_jumps s b n).rest K.start)
  raise c hc := K.raise s c hc K.start
  swi _ _ _ _ := K.raise _ _ (by decide) (K.congr s _ ⟨rfl, rfl, rfl, rfl⟩ K.start)
  returns := K.returns

end KeepsControl

/-- What raising an exception does to the fields of `SameControl`: the entry sets the mode and `xct`. -/
theorem raise_control (s : State) (c : BitVec 32) : SameControl { s with mode := .supervisor, xct := c } (s.raise c) := by
  unfold State.raise
  split
  · have he := (enter_entered s.advance c).rest
    have ha := (advance_fallsThrough s).rest
    exact ⟨he.config.trans ha.config, he.mode, he.xct, he.ioLog.trans ha.ioLog⟩
  · have he := (enter_entered s c).rest
    exact ⟨he.config, he.mode, he.xct, he.ioLog⟩

/-- Where an instruction is read, only the running `ipc` and its `iv` bit can differ, but for the model's bookkeeping. -/
structure Fetched (s u : State) : Prop where
  rest : SameRest s.tick u
  dlars : SameDlars s u
  ilars : ∀ k, k ≠ ipcOf s.mode → u.ilar k = s.ilar k
  otherIv : ∀ m, m ≠ s.mode → u.iv m = s.iv m

theorem Fetching.fetched {s u : State} (h : Fetching s u) : Fetched s u := by
  rcases h with ⟨_, rfl⟩ | ⟨_, l, _, rfl⟩
  · exact ⟨.refl _, fun _ => rfl, fun _ _ => rfl, fun m _ => iv_tick s m⟩
  · have ht := withLine_lineTaken s.tick l
    exact ⟨ht.rest, ht.dlars, ht.ilars, fun m hm => (ht.otherIv m hm).trans (iv_tick s m)⟩

theorem Fetched.control {s u : State} (h : Fetched s u) : SameControl s u :=
  ⟨h.rest.config, h.rest.mode, h.rest.xct, h.rest.ioLog⟩

/-! ### Leaving supervisor mode (O18) -/

/-- `i` is a `reti` or a `retx` whose condition is nonzero in `s` (R244, R245). -/
def NonZeroReturn (s : State) (i : Instr) : Prop :=
  ∃ a, (i ∈ [Instr.retiS a, .retxS a] ∧ s.NonZeroScalar a) ∨ (i ∈ [Instr.retiV a, .retxV a] ∧ s.NonZeroVector a)

theorem exec_leavesSupervisor {i : Instr} {s t : State} (hm : s.mode = .supervisor) (h : exec i s = .next t)
    (ht : t.mode = .user) : NonZeroReturn s i := by
  have K : KeepsControl i s (fun u => u.mode = .supervisor) (fun t => t.mode = .user → NonZeroReturn s i) :=
    { congr := fun _ _ hc hu => hc.mode.trans hu
      start := hm
      xct := fun _ _ _ _ => hm
      io := fun _ _ _ hc => hc.mode.trans hm
      done := fun _ hu hn => by rw [hu] at hn; cases hn
      raise := fun u c _ _ hn => by rw [raise_mode] at hn; cases hn
      returns := fun a _ _ hr _ =>
        ⟨a, hr.imp (fun ⟨hi, hc⟩ => ⟨by simpa using hi, (nonZeroScalar_iff s a).1 hc⟩)
          fun ⟨hi, hc⟩ => ⟨by simpa using hi, (nonZeroVector_iff s a).1 hc⟩⟩ }
  exact exec_keeps K.keeps h ht

/-- The conditions of Group 8 are about the mode, the byte order and the DLARs. -/
theorem Fetched.nonZeroReturn {s u : State} (h : Fetched s u) {i : Instr} (hr : NonZeroReturn u i) :
    NonZeroReturn s i := by
  have hd : ∀ n, u.d n = s.d n := fun n => by
    rw [State.d, State.reg, h.dlars, h.control.mode]; rfl
  have hs : ∀ n, u.scalar n = s.scalar n := fun n => by
    simp only [State.scalar, State.scalarAt, State.typeOf, hd, h.control.config]
  simpa only [NonZeroReturn, State.NonZeroScalar, State.NonZeroVector, hd, hs] using hr

/-- Settles O18: entries to supervisor mode keep it, and of the instructions only a return leaves it. -/
theorem onlyReturnsLeaveSupervisorMode : Obligations.OnlyReturnsLeaveSupervisorMode := by
  intro s t hm h ht
  rcases step_cases h with ⟨_, rfl⟩ | ⟨_, hu, _⟩ | ⟨hd, u, hu, hr⟩
  · rw [(enter_entered _ _).rest.mode] at ht; cases ht
  · rw [hu] at hm; cases hm
  · rcases hr with ⟨i, hi, he⟩ | ⟨_, rfl⟩
    · obtain ⟨a, ha⟩ := hu.fetched.nonZeroReturn (exec_leavesSupervisor (hu.fetched.control.mode.trans hm) he ht)
      exact ⟨a, i, hu.runs hd hi, ha⟩
    · rw [raise_mode] at ht; cases ht

/-! ### Writing `xct` (O19) -/

/-- The machine has just entered supervisor mode with one of the codes of R320. -/
def JustEntered (t : State) : Prop := t.mode = .supervisor ∧ t.xct.toNat ≤ 0x15 ∧ t.pc = 0

theorem justEntered_enter (s : State) {c : BitVec 32} (hc : c.toNat ≤ 0x15) : JustEntered (s.enter c) := by
  have he := enter_entered s c
  refine ⟨he.rest.mode, by rw [he.rest.xct]; exact hc, ?_⟩
  rw [pc_eq, he.rest.mode]
  exact he.addr

theorem justEntered_raise (s : State) {c : BitVec 32} (hc : c.toNat ≤ 0x15) : JustEntered (s.raise c) := by
  unfold State.raise
  split <;> exact justEntered_enter _ hc

theorem exec_xct {i : Instr} {s t : State} (h : exec i s = .next t) :
    (t.xct = s.xct ∨ (s.mode = .supervisor ∧ ∃ a, i = .cpyToXct a)) ∨ JustEntered t := by
  have K : KeepsControl i s (fun u => u.xct = s.xct ∨ (s.mode = .supervisor ∧ ∃ a, i = .cpyToXct a))
      (fun t => (t.xct = s.xct ∨ (s.mode = .supervisor ∧ ∃ a, i = .cpyToXct a)) ∨ JustEntered t) :=
    { congr := fun _ _ hc => Or.imp_left hc.xct.trans
      start := .inl rfl
      xct := fun a _ hi hm => .inr ⟨hm, a, hi⟩
      io := fun _ _ _ hc => .inl hc.xct
      done := fun _ hu => .inl hu
      raise := fun u _ hc _ => .inr (justEntered_raise u hc)
      returns := fun _ _ _ _ => .inl (.inl rfl) }
  exact exec_keeps K.keeps h

/-- Settles O19: outside an entry, `cpy.s xct, dA` is the one instruction that writes `xct`. -/
theorem exceptionTypeIsWrittenOnlyOnEntry : Obligations.ExceptionTypeIsWrittenOnlyOnEntry := by
  intro s t h hx
  rcases step_cases h with ⟨_, rfl⟩ | ⟨_, _, rfl⟩ | ⟨hd, u, hu, hr⟩
  · exact .inl (justEntered_enter _ (by decide))
  · exact .inl (justEntered_enter _ (by decide))
  · have hc := hu.fetched.control
    rcases hr with ⟨i, hi, he⟩ | ⟨_, rfl⟩
    · rcases exec_xct he with (hn | ⟨hm, a, rfl⟩) | ht
      · exact absurd (hn.trans hc.xct) hx
      · exact .inr ⟨hc.mode.symm.trans hm, a, hu.runs hd hi⟩
      · exact .inl ht
    · exact .inl (justEntered_raise u (by decide))

/-! ### IO space (O21) -/

/-- `t` has the parameters of `s`, and its log of accesses or, if `may`, one access more. -/
def OneAccess (may : Prop) (s t : State) : Prop :=
  t.config = s.config ∧ (t.ioLog = s.ioLog ∨ ∃ e, t.ioLog = s.ioLog ++ [e] ∧ may)

theorem OneAccess.congr {may : Prop} {s u t : State} (h : SameControl u t) (hu : OneAccess may s u) : OneAccess may s t := by
  rwa [OneAccess, h.config, h.ioLog]

theorem exec_oneAccess {i : Instr} {s t : State} (h : exec i s = .next t) :
    OneAccess (field (encode i) 31 28 = 11) s t := by
  have K : KeepsControl i s (OneAccess (field (encode i) 31 28 = 11) s) (OneAccess (field (encode i) 31 28 = 11) s) :=
    { congr := fun _ _ hc => OneAccess.congr hc
      start := ⟨rfl, .inl rfl⟩
      xct := fun _ _ _ _ => ⟨rfl, .inl rfl⟩
      io := fun _ e h11 hc => ⟨hc.config, .inr ⟨e, hc.ioLog, h11⟩⟩
      done := fun _ hu => hu
      raise := fun u c _ hu => OneAccess.congr (raise_control u c) hu
      returns := fun _ _ _ _ => ⟨rfl, .inl rfl⟩ }
  exact exec_keeps K.keeps h

/-- Settles O21: only `in` and `out` add to the log, and each does so once. -/
theorem ioSpaceIsReachedByGroupElevenOnly : Obligations.IoSpaceIsReachedByGroupElevenOnly := by
  intro s t h
  rcases step_cases h with ⟨_, rfl⟩ | ⟨_, _, rfl⟩ | ⟨hd, u, hu, hr⟩
  · have he := (enter_entered s.tick 0x0).rest
    exact ⟨he.config, .inl he.ioLog⟩
  · have he := (enter_entered s.tick 0x15).rest
    exact ⟨he.config, .inl he.ioLog⟩
  · have hc := hu.fetched.control
    rcases hr with ⟨i, hi, he⟩ | ⟨_, rfl⟩
    · obtain ⟨hconfig, hlog⟩ := exec_oneAccess he
      rw [hc.config, hc.ioLog] at *
      exact ⟨hconfig, hlog.imp_right fun ⟨e, hl, h11⟩ => ⟨e, i, hl, hu.runs hd hi, h11⟩⟩
    · have hr := raise_control u 0x2
      exact ⟨hr.config.trans hc.config, .inl (hr.ioLog.trans hc.ioLog)⟩

end Sys2Proof.Machine
end

section
/-! The statement about what user mode leaves alone (O20). -/

namespace Sys2Proof.Machine

/-- Of the supervisor's registers `t` has those of `s`, but for the `ipc`, and for what sharing lets a write into a line change
of a DLAR (R65). -/
structure SupervisorLarsKept (s t : State) : Prop where
  dlars : ∀ k : PhysReg, 64 ≤ k.val → SameHead (s.dlar k) (t.dlar k)
  ilars : ∀ k : PhysReg, 64 ≤ k.val → k ≠ 127 → t.ilar k = s.ilar k

/-- `t` is in user mode, and has of `s` all that is the supervisor's. -/
structure UserWork (s t : State) : Prop extends SupervisorLarsKept s t where
  mode : t.mode = .user
  ipc : t.ilar 127 = s.ilar 127
  iv : t.iv .supervisor = s.iv .supervisor
  ie : t.ie = s.ie
  xct : t.xct = s.xct
  swiarg0 : t.swiarg0 = s.swiarg0
  swiarg1 : t.swiarg1 = s.swiarg1
  swiarg2 : t.swiarg2 = s.swiarg2
  swiarg3 : t.swiarg3 = s.swiarg3

theorem SupervisorLarsKept.trans {s t u : State} (h : SupervisorLarsKept s t) (g : SupervisorLarsKept t u) :
    SupervisorLarsKept s u :=
  ⟨fun k hk => (h.dlars k hk).trans (g.dlars k hk), fun k hk hn => (g.ilars k hk hn).trans (h.ilars k hk hn)⟩

theorem sameHead_of_eq {D E : Dlar} (h : E = D) : SameHead D E := h ▸ .refl D

theorem UserWork.of {s u t : State} (h : UserWork s u) (rest : SameRest u t)
    (dlars : ∀ k : PhysReg, 64 ≤ k.val → SameHead (u.dlar k) (t.dlar k))
    (ilars : ∀ k : PhysReg, 64 ≤ k.val → t.ilar k = u.ilar k) (iv : t.iv .supervisor = u.iv .supervisor) :
    UserWork s t where
  toSupervisorLarsKept := h.toSupervisorLarsKept.trans ⟨dlars, fun k hk _ => ilars k hk⟩
  mode := rest.mode.trans h.mode
  ipc := (ilars 127 (by decide)).trans h.ipc
  iv := iv.trans h.iv
  ie := rest.ie.trans h.ie
  xct := rest.xct.trans h.xct
  swiarg0 := rest.swiarg0.trans h.swiarg0
  swiarg1 := rest.swiarg1.trans h.swiarg1
  swiarg2 := rest.swiarg2.trans h.swiarg2
  swiarg3 := rest.swiarg3.trans h.swiarg3

theorem UserWork.tick {s : State} (hm : s.mode = .user) : UserWork s s.tick :=
  ⟨⟨fun _ _ => .refl _, fun _ _ _ => rfl⟩, hm, rfl, rfl, rfl, rfl, rfl, rfl, rfl, rfl⟩

theorem ne_of_banks {j k : PhysReg} (hj : 64 ≤ j.val) (hk : k.val < 64) : j ≠ k := fun h => by subst h; omega

theorem ipcOf_user_bank : (ipcOf .user).val < 64 := by decide

namespace UserWork

variable {s u : State}

theorem data (s : State) : KeptByDataUpdates (UserWork s) fun k => k.val < 64 where
  mem u m h := h.of (sameRest_mem u m) (fun _ _ => .refl _) (fun _ _ => rfl) rfl
  holders u b _ hf h := h.of (sameRest_mapHolders u b _) (fun k _ => sameHead_mapHolders u b hf k) (fun _ _ => by simp)
    (by simp)
  set u k D hk h := h.of (sameRest_setDlar u k D)
    (fun j hj => sameHead_of_eq (by rw [dlar_setDlar, if_neg fun hjk => ne_of_banks hj hk hjk.1])) (fun _ _ => by simp)
    (by simp)

theorem reg (h : UserWork s u) (n : Fin 64) : (u.reg n).val < 64 := by
  rw [State.reg, h.mode]
  exact n.isLt

theorem setType (h : UserWork s u) (n : DReg) (T : Ty) : UserWork s (u.setType n T) := (data s).set _ _ _ (h.reg n) h

theorem ioRead (h : UserWork s u) (ea : Addr) (n : Nat) : UserWork s (u.ioRead ea n) :=
  ⟨⟨h.dlars, h.ilars⟩, h.mode, h.ipc, h.iv, h.ie, h.xct, h.swiarg0, h.swiarg1, h.swiarg2, h.swiarg3⟩

theorem ioWrite (h : UserWork s u) (ea : Addr) (bs : List Byte) : UserWork s (u.ioWrite ea bs) :=
  ⟨⟨h.dlars, h.ilars⟩, h.mode, h.ipc, h.iv, h.ie, h.xct, h.swiarg0, h.swiarg1, h.swiarg2, h.swiarg3⟩

/-- An operation on one of the user's ILARs. -/
theorem ofIlar (h : UserWork s u) {t : State} {k : PhysReg} (hk : k.val < 64) (rest : SameRest u t)
    (dlars : SameDlars u t) (others : ∀ j, j ≠ k → t.ilar j = u.ilar j)
    (iv : t.iv .supervisor = (u.iv .supervisor || decide (k = ipcOf .supervisor))) : UserWork s t := by
  have : k ≠ ipcOf .supervisor := fun hks => ne_of_banks (j := ipcOf .supervisor) (by decide) hk hks.symm
  exact h.of rest (fun j _ => sameHead_of_eq (dlars j)) (fun j hj => others j (ne_of_banks hj hk)) (by simpa [this] using iv)

theorem ifill (h : UserWork s u) {k : PhysReg} (hk : k.val < 64) (a : Addr) : UserWork s (u.ifill k a) :=
  have hf := ifill_filled u k a
  h.ofIlar hk hf.rest hf.dlars (fun j hj => hf.others j (.inl hj)) (hf.iv _)

theorem ireload (h : UserWork s u) {k : PhysReg} (hk : k.val < 64) : UserWork s (u.ireload k) :=
  have hr := ireload_reloaded u k
  h.ofIlar hk hr.rest hr.dlars (fun j hj => hr.others j (.inl hj)) (hr.iv _)

/-- Sequencing in user mode touches the user `ipc` and its `iv` bit alone. -/
theorem ofIpc (h : UserWork s u) {t : State} (rest : SameRest u t) (dlars : SameDlars u t)
    (others : ∀ k, k ≠ ipcOf u.mode → t.ilar k = u.ilar k) (otherIv : ∀ m, m ≠ u.mode → t.iv m = u.iv m) :
    UserWork s t := by
  rw [h.mode] at others otherIv
  exact h.of rest (fun j _ => sameHead_of_eq (dlars j)) (fun j hj => others j (ne_of_banks hj ipcOf_user_bank))
    (otherIv _ (by decide))

theorem advance (h : UserWork s u) : UserWork s u.advance :=
  have hf := advance_fallsThrough u
  h.ofIpc hf.rest hf.dlars hf.ilars hf.otherIv

theorem jump (h : UserWork s u) (b : IReg) (n : Nat) : UserWork s (u.jump b n) :=
  have hj := jump_jumps u b n
  h.ofIpc hj.rest hj.dlars hj.ilars hj.otherIv

theorem fetched (hm : s.mode = .user) (h : Fetched s u) : UserWork s u :=
  (UserWork.tick hm).ofIpc h.rest h.dlars h.ilars fun m hn => (h.otherIv m hn).trans (iv_tick s m).symm

end UserWork

theorem larsKept_enter (s : State) (c : BitVec 32) : SupervisorLarsKept s (s.enter c) :=
  have he := enter_entered s c
  ⟨fun k _ => sameHead_of_eq (he.dlars k), fun k _ hk => he.ilars k hk⟩

theorem larsKept_raise {s : State} (hm : s.mode = .user) (c : BitVec 32) : SupervisorLarsKept s (s.raise c) := by
  have hf := advance_fallsThrough s
  rw [State.raise, hm]
  refine SupervisorLarsKept.trans ⟨fun k _ => sameHead_of_eq (hf.dlars k), fun k hk _ => hf.ilars k ?_⟩ (larsKept_enter _ c)
  rw [hm]
  exact ne_of_banks hk ipcOf_user_bank

/-- What O20 says of a state that a step from user mode answers. -/
def UserStepped (s t : State) : Prop := SupervisorLarsKept s t ∧ (t.mode = .user → UserWork s t)

theorem UserWork.stepped {s t : State} (h : UserWork s t) : UserStepped s t := ⟨h.toSupervisorLarsKept, fun _ => h⟩

theorem userStepped_enter {s u : State} (h : UserWork s u) (c : BitVec 32) : UserStepped s (u.enter c) :=
  ⟨h.toSupervisorLarsKept.trans (larsKept_enter u c), fun hm => by rw [(enter_entered u c).rest.mode] at hm; cases hm⟩

/-- `u` may also differ from user-mode work in what an exception is about to hand over, as with `swi`. -/
theorem userStepped_raise {s u : State} (h : SupervisorLarsKept s u) (hm : u.mode = .user) (c : BitVec 32) :
    UserStepped s (u.raise c) :=
  ⟨h.trans (larsKept_raise hm c), fun hm => by rw [raise_mode] at hm; cases hm⟩

theorem exec_userStepped {i : Instr} {s u t : State} (h : UserWork s u) (e : exec i u = .next t) : UserStepped s t := by
  have no : ∀ {p : Prop}, u.mode = .supervisor → p := fun hm => by rw [h.mode] at hm; cases hm
  have K : Keeps i u (UserWork s) (UserStepped s) fun k => k.val < 64 :=
    { start := h
      reg := fun v n hv => hv.reg n
      bank := fun bank n hb => by
        rcases hb with hm | rfl
        · exact no hm
        · exact n.isLt
      write := fun v k p bs hv _ => (UserWork.data s).write k p bs hv
      type := fun v n T hv => hv.setType n T
      load := fun v k ea T hv hk => (UserWork.data s).load hk ea T hv
      store := fun v ea x _ hv => (UserWork.data s).store ea x hv
      flush := fun v k hv _ => (UserWork.data s).flush k hv
      reload := fun v k hv _ => (UserWork.data s).reload k hv
      fill := fun v k a hv hk => hv.ifill hk a
      ireload := fun v k hv hk => hv.ireload hk
      ie := fun _ => no
      xct := fun _ _ _ => no
      swiarg0 := fun _ => no
      swiarg1 := fun _ => no
      swiarg2 := fun _ => no
      swiarg3 := fun _ => no
      input := fun a T ea n _ => (h.setType a T).ioRead ea n
      output := fun a T ea bs _ => (h.setType a T).ioWrite ea bs
      next := fun v hv => hv.advance.stepped
      jump := fun b n => (h.jump b n).stepped
      raise := fun c _ => userStepped_raise h.toSupervisorLarsKept h.mode c
      swi := fun l0 l1 l2 l3 => userStepped_raise
        (u := { u with swiarg0 := l0, swiarg1 := l1, swiarg2 := l2, swiarg3 := l3 }) ⟨h.dlars, h.ilars⟩ h.mode _
      returns := fun _ _ hm => no hm }
  exact exec_keeps K e

theorem step_userStepped {s t : State} (hm : s.mode = .user) (h : step s = .next t) : UserStepped s t := by
  rcases step_cases h with ⟨_, rfl⟩ | ⟨_, _, rfl⟩ | ⟨_, u, hu, hr⟩
  · exact userStepped_enter (UserWork.tick hm) _
  · exact userStepped_enter (UserWork.tick hm) _
  · have hw := UserWork.fetched hm hu.fetched
    rcases hr with ⟨i, _, he⟩ | ⟨_, rfl⟩
    · exact exec_userStepped hw he
    · exact userStepped_raise hw.toSupervisorLarsKept hw.mode _

/-- Settles O20: from user mode an instruction writes no LAR of the other bank, and the rest only an entry writes. -/
theorem userModeCannotTouchSupervisorRegisters : Obligations.UserModeCannotTouchSupervisorRegisters := by
  intro s t hm h
  obtain ⟨hlars, huser⟩ := step_userStepped hm h
  refine ⟨fun k hk => ?_, hlars.ilars, fun ht => ?_⟩
  · have hd := hlars.dlars k hk
    exact ⟨hd.addr, hd.type, hd.tag, hd.refCount⟩
  · have hw := huser ht
    exact ⟨hw.ipc, hw.iv, hw.ie, hw.xct, hw.swiarg0, hw.swiarg1, hw.swiarg2, hw.swiarg3⟩

end Sys2Proof.Machine
end

section
/-! The statement about clean lines (O12): the joint invariant of memory and the lines that DLARs hold. -/

namespace Sys2Proof.Machine

/-- Memory and the lines that DLARs hold fit together: the invariant of O12. -/
structure Coherent (s : State) : Prop where
  wf : s.mem.wf = true
  shared : s.shared
  clean : s.cleanLines

namespace Coherent

variable {s t : State}

/-- `t` shows in every DLAR the line that `s` shows there. -/
theorem congr (h : Coherent s) (hw : t.mem.wf = true) (mem : SameMem s t)
    (lines : ∀ k, lineOf (t.dlar k).addr = lineOf (s.dlar k).addr ∧ (t.dlar k).data = (s.dlar k).data ∧
      (t.dlar k).dirty = (s.dlar k).dirty) : Coherent t := by
  have hold : ∀ b k, t.HoldsLine b k → s.HoldsLine b k := fun b k hk => ⟨hk.1, (lines k).1.symm.trans hk.2⟩
  refine ⟨hw, fun b j k hj hk => ?_, fun b k hk hc i hi => ?_⟩
  · obtain ⟨-, hjd, hjx⟩ := lines j
    obtain ⟨-, hkd, hkx⟩ := lines k
    rw [hjd, hjx, hkd, hkx]
    exact h.shared b j k (hold b j hj) (hold b k hk)
  · obtain ⟨-, hkd, hkx⟩ := lines k
    rw [hkd, mem]
    exact h.clean b k (hold b k hk) (hkx.symm.trans hc) i hi

theorem same (h : Coherent s) (hd : t.dlars = s.dlars) (hm : t.mem = s.mem) : Coherent t :=
  h.congr (by rw [hm]; exact h.wf) (sameMem_of hm) fun k => by simp [dlar_congr hd k]

/-- One line `b` is replaced in all its holders by `l`, dirty or as memory now has it; elsewhere nothing changes. -/
theorem line_changed (h : Coherent s) {b : LineNo} {l : Line} {d : Bool} (hw : t.mem.wf = true)
    (mem : ∀ a, lineOf a ≠ b → t.mem.read a = s.mem.read a)
    (others : ∀ k, ¬ s.HoldsLine b k → t.dlar k = s.dlar k)
    (addr : ∀ k, s.HoldsLine b k → (t.dlar k).addr = (s.dlar k).addr)
    (line : ∀ k, s.HoldsLine b k → (t.dlar k).data = l ∧ (t.dlar k).dirty = d)
    (clean : d = false → ∀ i, i < 128 → byteAt l i = t.mem.read (lineAddr b i)) : Coherent t := by
  have hold : ∀ b' k, t.HoldsLine b' k → s.HoldsLine b' k := fun b' k hk => by
    by_cases hb : s.HoldsLine b k
    · exact ⟨hk.1, by rw [← addr k hb]; exact hk.2⟩
    · exact ⟨hk.1, by rw [← others k hb]; exact hk.2⟩
  have other : ∀ {b' k}, b' ≠ b → s.HoldsLine b' k → t.dlar k = s.dlar k := fun hb hk =>
    others _ fun hk' => hb (hk.2.symm.trans hk'.2)
  refine ⟨hw, fun b' j k hj hk => ?_, fun b' k hk hc i hi => ?_⟩
  · have hj := hold b' j hj
    have hk := hold b' k hk
    by_cases hb : b' = b
    · subst hb
      obtain ⟨hjd, hjx⟩ := line j hj
      obtain ⟨hkd, hkx⟩ := line k hk
      exact ⟨hjd.trans hkd.symm, hjx.trans hkx.symm⟩
    · rw [other hb hj, other hb hk]
      exact h.shared b' j k hj hk
  · have hk := hold b' k hk
    by_cases hb : b' = b
    · subst hb
      obtain ⟨hkd, hkx⟩ := line k hk
      rw [hkd]
      exact clean (hkx.symm.trans hc) i hi
    · rw [other hb hk] at hc ⊢
      rw [mem _ (by rwa [lineOf_lineAddr _ hi])]
      exact h.clean b' k hk hc i hi

end Coherent

/-! ### The canonical form of memory -/

theorem writeBytes_mem (s : State) (k : PhysReg) (p : Nat) (bs : List Byte) : (s.writeBytes k p bs).mem = s.mem := by
  unfold State.writeBytes
  split <;> rfl

theorem dreload_mem (s : State) (k : PhysReg) : (s.dreload k).mem = s.mem := by
  unfold State.dreload
  split <;> rfl

theorem wf_release {s : State} (hw : s.mem.wf = true) (k : PhysReg) : (s.release k).mem.wf = true := by
  unfold State.release
  split
  · exact wf_writeLine hw _ _
  · exact hw

theorem wf_dload {s : State} (hw : s.mem.wf = true) (k : PhysReg) (ea : Addr) (T : Ty) :
    (s.dload k ea T).mem.wf = true := by
  unfold State.dload
  split
  · exact hw
  · split
    · rwa [State.setDlar_mem]
    · dsimp only
      rw [State.setDlar_mem]
      exact wf_release hw k

theorem wf_dataWrite {s : State} (hw : s.mem.wf = true) (ea : Addr) (v : TVal) : (s.dataWrite ea v).mem.wf = true := by
  unfold State.dataWrite
  split
  · exact hw
  · exact wf_writeBytes hw _ _

theorem wf_dflush {s : State} (hw : s.mem.wf = true) (k : PhysReg) : (s.dflush k).mem.wf = true := by
  unfold State.dflush
  split
  · exact hw
  · exact wf_writeLine hw _ _

/-! ### The operations on DLARs -/

theorem DataChanged.data_eq {D E : Dlar} {p : Nat} {bs : List Byte} (h : DataChanged D E p bs) : E.data = patch D.data p bs :=
  line_ext fun j hj => (h.data j hj).trans (byteAt_patch _ _ _ hj).symm

/-- The bytes of a string that lies within one line. -/
theorem lineOf_of_sub_lt {a ea : Addr} {n : Nat} (hn : offsetOf ea + n ≤ 128) (h : (a - ea).toNat < n) :
    lineOf a = lineOf ea := by
  apply BitVec.eq_of_toNat_eq
  rw [lineOf_toNat, lineOf_toNat]
  have ha := a.isLt
  have he := ea.isLt
  rw [offsetOf] at hn
  rw [BitVec.toNat_sub] at h
  omega

theorem bytes_length (order : ByteOrder) (v : TVal) : (v.bytes order).length = v.ty.size := natToBytes_length _ _ _

namespace Coherent

variable {s : State}

theorem setType (h : Coherent s) (n : DReg) (T : Ty) : Coherent (s.setType n T) := by
  have hm : (s.setType n T).mem = s.mem := by rw [State.setType, State.setDlar_mem]
  refine h.congr (by rw [hm]; exact h.wf) (sameMem_of hm) fun k => ?_
  rw [State.setType, dlar_setDlar]
  split
  · next hk => rw [hk.1]; exact ⟨rfl, rfl, rfl⟩
  · exact ⟨rfl, rfl, rfl⟩

theorem writeBytes (h : Coherent s) (k : PhysReg) (p : Nat) (bs : List Byte) : Coherent (s.writeBytes k p bs) := by
  have hb := writeBytes_lineWritten s k p bs
  have hw : (s.writeBytes k p bs).mem.wf = true := by rw [writeBytes_mem]; exact h.wf
  cases hk : isZeroReg k with
  | true => exact h.congr hw hb.mem fun j => by rw [hb.others j (.inl hk)]; exact ⟨rfl, rfl, rfl⟩
  | false =>
    have changed := hb.holders hk
    exact h.line_changed (l := patch (s.dlar k).data p bs) (d := true) hw (fun a _ => hb.mem a)
      (fun j hj => hb.others j (.inr hj)) (fun j hj => (changed j hj).addr)
      (fun j hj => ⟨by rw [(changed j hj).data_eq, (h.shared _ j k hj ⟨hk, rfl⟩).1], (changed j hj).dirty⟩) nofun

theorem dataWrite (h : Coherent s) {ea : Addr} {v : TVal} (hn : offsetOf ea + v.ty.size ≤ 128) :
    Coherent (s.dataWrite ea v) := by
  have hs := dataWrite_stored s h.wf ea v
  have hw := wf_dataWrite h.wf ea v
  by_cases hh : ∃ k, s.HoldsLine (lineOf ea) k
  · obtain ⟨k, hk⟩ := hh
    have changed := fun j hj => (hs.held j hj).2
    exact h.line_changed (l := patch (s.dlar k).data (offsetOf ea) (v.bytes s.config.byteOrder)) (d := true) hw
      (fun a _ => (hs.held k hk).1 a) hs.others (fun j hj => (changed j hj).addr)
      (fun j hj => ⟨by rw [(changed j hj).data_eq, (h.shared _ j k hj hk).1], (changed j hj).dirty⟩) nofun
  · have no : ∀ k, ¬ s.HoldsLine (lineOf ea) k := fun k hk => hh ⟨k, hk⟩
    refine h.line_changed (b := lineOf ea) (l := zeroLine) (d := true) hw (fun a ha => ?_) hs.others
      (fun k hk => absurd hk (no k)) (fun k hk => absurd hk (no k)) nofun
    rw [hs.unheld no, if_neg]
    rw [bytes_length]
    exact fun hlt => ha (lineOf_of_sub_lt hn hlt)

theorem dflush (h : Coherent s) (k : PhysReg) : Coherent (s.dflush k) := by
  have hf := dflush_flushed s h.wf k
  have hw := wf_dflush h.wf k
  cases hk : isZeroReg k with
  | true => exact h.congr hw (fun a => by simp [hf.mem, hk]) fun j => by simp [hf.dlars, hk]
  | false =>
    have mem : ∀ a, (s.dflush k).mem.read a =
        if lineOf a = lineOf (s.dlar k).addr then byteAt (s.dlar k).data (offsetOf a) else s.mem.read a := by
      simpa only [hk, true_and] using hf.mem
    have held : ∀ j, s.HoldsLine (lineOf (s.dlar k).addr) j → (s.dflush k).dlar j = { s.dlar j with dirty := false } :=
      fun j hj => (hf.dlars j).trans (if_pos ⟨hk, hj⟩)
    refine h.line_changed (b := lineOf (s.dlar k).addr) (l := (s.dlar k).data) (d := false) hw
      (fun a ha => by rw [mem, if_neg ha]) (fun j hj => (hf.dlars j).trans (if_neg fun hh => hj hh.2))
      (fun j hj => by rw [held j hj]) (fun j hj => ?_) (fun _ i hi => ?_)
    · rw [held j hj]
      exact ⟨(h.shared _ j k hj ⟨hk, rfl⟩).1, rfl⟩
    · rw [mem, if_pos (lineOf_lineAddr _ hi), offsetOf_lineAddr _ hi]

theorem dreload (h : Coherent s) (k : PhysReg) : Coherent (s.dreload k) := by
  have hr := dreload_reloaded s k
  have hw : (s.dreload k).mem.wf = true := by rw [dreload_mem]; exact h.wf
  cases hk : isZeroReg k with
  | true => exact h.congr hw hr.mem fun j => by rw [hr.others j (.inl hk)]; exact ⟨rfl, rfl, rfl⟩
  | false =>
    have reloaded := hr.holders hk
    refine h.line_changed (b := lineOf (s.dlar k).addr) (l := s.mem.line (lineOf (s.dlar k).addr)) (d := false) hw
      (fun a _ => hr.mem a) (fun j hj => hr.others j (.inr hj)) (fun j hj => ?_) (fun j hj => ⟨?_, ?_⟩) (fun _ i hi => ?_)
    · rw [(reloaded j hj).1]
    · exact line_ext fun i hi => ((reloaded j hj).2 i hi).trans (byteAt_line _ _ hi).symm
    · rw [(reloaded j hj).1]
    · rw [byteAt_line _ _ hi, hr.mem]

/-- A DLAR that lets go of its line writes memory only where no other DLAR looks (R68). -/
theorem read_of_released {t : State} {k : PhysReg} (hr : Released s t k) {b : LineNo} {j : PhysReg} (hj : s.HoldsLine b j)
    (hjk : j ≠ k) {i : Nat} (hi : i < 128) : t.mem.read (lineAddr b i) = s.mem.read (lineAddr b i) := by
  by_cases hl : s.LastDirty k
  · rw [hr.1 hl, if_neg]
    rw [lineOf_lineAddr _ hi]
    exact fun hb => hjk (hl.2 j (hb ▸ hj))
  · exact hr.2 hl _

/-- A DLAR that takes another line shares it with its holders, or has it clean from memory (R67). -/
theorem of_loaded {t : State} {k : PhysReg} {ea : Addr} {T : Ty} (h : Coherent s) (hw : t.mem.wf = true)
    (hl : Loaded s t k ea T) (hk : isZeroReg k = false) (hne : lineOf (s.dlar k).addr ≠ lineOf ea) : Coherent t := by
  obtain ⟨hrel, hgot⟩ := hl.new hk hne
  have other : ∀ {b j}, j ≠ k → t.HoldsLine b j → s.HoldsLine b j ∧ t.dlar j = s.dlar j := fun {b j} hj hb => by
    have he := hl.others j (.inl hj)
    exact ⟨⟨hb.1, by rw [← he]; exact hb.2⟩, he⟩
  have line : ∀ {b}, t.HoldsLine b k → b = lineOf ea := fun hb => by rw [← hb.2, hl.addr hk]
  have joins : ∀ {b j}, j ≠ k → t.HoldsLine b k → t.HoldsLine b j →
      (t.dlar k).data = (t.dlar j).data ∧ (t.dlar k).dirty = (t.dlar j).dirty := by
    intro b j hj hbk hbj
    obtain ⟨hsj, he⟩ := other hj hbj
    rw [line hbk] at hsj
    rcases hgot with ⟨x, hx, hd, hy⟩ | ⟨hno, -, -⟩
    · rw [hd, hy, he]
      exact h.shared _ x j hx.1 hsj
    · exact absurd (hno j hsj) hj
  refine ⟨hw, fun b i j hi hj => ?_, fun b j hj hc i hi => ?_⟩
  · by_cases hik : i = k
    · by_cases hjk : j = k
      · rw [hik, hjk]; exact ⟨rfl, rfl⟩
      · subst hik; exact joins hjk hi hj
    · by_cases hjk : j = k
      · subst hjk
        obtain ⟨hd, hx⟩ := joins hik hj hi
        exact ⟨hd.symm, hx.symm⟩
      · obtain ⟨hsi, hei⟩ := other hik hi
        obtain ⟨hsj, hej⟩ := other hjk hj
        rw [hei, hej]
        exact h.shared b i j hsi hsj
  · by_cases hjk : j = k
    · subst hjk
      rcases hgot with ⟨x, hx, hd, hy⟩ | ⟨-, -, hmem⟩
      · rw [line hj, hd, read_of_released hrel hx.1 hx.2.1 hi]
        exact h.clean _ x hx.1 (hy.symm.trans hc) i hi
      · rw [line hj]; exact hmem i hi
    · obtain ⟨hsj, he⟩ := other hjk hj
      rw [he] at hc ⊢
      rw [read_of_released hrel hsj hjk hi]
      exact h.clean b j hsj hc i hi

theorem dload (h : Coherent s) (k : PhysReg) (ea : Addr) (T : Ty) : Coherent (s.dload k ea T) := by
  have hl := dload_loaded s h.wf k ea T
  have hw := wf_dload h.wf k ea T
  cases hk : isZeroReg k with
  | true => exact h.congr hw (hl.zero hk) fun j => by rw [hl.others j (.inr hk)]; exact ⟨rfl, rfl, rfl⟩
  | false =>
    by_cases hb : lineOf (s.dlar k).addr = lineOf ea
    · obtain ⟨hd, hx, hm⟩ := hl.same hk hb
      refine h.congr hw hm fun j => ?_
      by_cases hj : j = k
      · subst hj; exact ⟨by rw [hl.addr hk, hb], hd, hx⟩
      · rw [hl.others j (.inl hj)]; exact ⟨rfl, rfl, rfl⟩
    · exact h.of_loaded hw hl hk hb

end Coherent

/-! ### The rest of a step changes neither DLARs nor memory -/

theorem validate_data (s : State) (k : PhysReg) : (s.validate k).dlars = s.dlars ∧ (s.validate k).mem = s.mem :=
  ⟨(validate_files s k).2, (validate_spec s k).2.2.2.1⟩

theorem ifill_data (s : State) (k : PhysReg) (a : Addr) : (s.ifill k a).dlars = s.dlars ∧ (s.ifill k a).mem = s.mem := by
  unfold State.ifill
  split
  · exact ⟨rfl, rfl⟩
  · simp [validate_data]

theorem ireload_data (s : State) (k : PhysReg) : (s.ireload k).dlars = s.dlars ∧ (s.ireload k).mem = s.mem := by
  unfold State.ireload
  split
  · exact ⟨rfl, rfl⟩
  · simp [validate_data]

namespace Coherent

variable {s : State}

theorem raise (h : Coherent s) (c : BitVec 32) : Coherent (s.raise c) := h.same (raise_data s c).1 (raise_data s c).2

theorem keeps (h : Coherent s) (i : Instr) : Keeps i s Coherent Coherent fun _ => True where
  start := h
  reg _ _ _ := trivial
  bank _ _ _ := trivial
  write _ k p bs hu _ := hu.writeBytes k p bs
  type _ n T hu := hu.setType n T
  load _ k ea T hu _ := hu.dload k ea T
  store _ _ _ hn hu := hu.dataWrite hn
  flush _ k hu _ := hu.dflush k
  reload _ k hu _ := hu.dreload k
  fill u k a hu _ := hu.same (ifill_data u k a).1 (ifill_data u k a).2
  ireload u k hu _ := hu.same (ireload_data u k).1 (ireload_data u k).2
  ie _ _ := h.same rfl rfl
  xct _ _ _ _ := h.same rfl rfl
  swiarg0 _ _ := h.same rfl rfl
  swiarg1 _ _ := h.same rfl rfl
  swiarg2 _ _ := h.same rfl rfl
  swiarg3 _ _ := h.same rfl rfl
  input a T _ _ _ := (h.setType a T).same rfl rfl
  output a T _ _ _ := (h.setType a T).same rfl rfl
  next u hu := hu.same (advance_data u).1 (advance_data u).2
  jump _ _ := h.same (by simp [State.jump]) (by simp [State.jump])
  raise c _ := h.raise c
  swi l0 l1 l2 l3 :=
    raise (s := { s with swiarg0 := l0, swiarg1 := l1, swiarg2 := l2, swiarg3 := l3 }) (h.same rfl rfl) _
  returns _ _ _ _ := h.same rfl rfl

theorem step {t : State} (hs : Coherent s) (h : Machine.step s = .next t) : Coherent t :=
  step_keeps (fun _ hs => hs.same rfl rfl) (fun _ _ hs => hs.same (by simp [State.withLine]) (by simp [State.withLine]))
    (fun s c hs => hs.same (enter_data s c).1 (enter_data s c).2) (fun _ c hs => hs.raise c)
    (fun i _ _ hs => exec_keeps (hs.keeps i)) hs h

end Coherent

/-- Settles O12: each operation changes one line in all its holders at once, or moves one DLAR to another line. -/
theorem stepKeepsCleanLines : Obligations.StepKeepsCleanLines := by
  intro s t hw hshared hclean h
  have ht := Coherent.step ⟨hw, hshared, hclean⟩ h
  exact ⟨ht.wf, ht.shared, ht.clean⟩

end Sys2Proof.Machine
end

section
/-! The statements about what every step keeps of memory and of the lines that DLARs hold (O8, O11). -/

namespace Sys2Proof.Machine

/-- `Inv` is about the DLARs and memory alone, and is kept by every operation on them (R65 to R71). -/
structure DataInvariant (Inv : State → Prop) : Prop where
  same : ∀ (s t : State), t.dlars = s.dlars → t.mem = s.mem → Inv s → Inv t
  type : ∀ {s : State} (n : DReg) (T : Ty), Inv s → Inv (s.setType n T)
  write : ∀ {s : State} (k : PhysReg) (p : Nat) (bs : List Byte), Inv s → Inv (s.writeBytes k p bs)
  load : ∀ {s : State} (k : PhysReg) (ea : Addr) (T : Ty), Inv s → Inv (s.dload k ea T)
  store : ∀ {s : State} (ea : Addr) (v : TVal), Inv s → Inv (s.dataWrite ea v)
  flush : ∀ {s : State} (k : PhysReg), Inv s → Inv (s.dflush k)
  reload : ∀ {s : State} (k : PhysReg), Inv s → Inv (s.dreload k)

namespace DataInvariant

variable {Inv : State → Prop} {s : State}

theorem raise (I : DataInvariant Inv) (c : BitVec 32) (h : Inv s) : Inv (s.raise c) :=
  I.same s _ (raise_data s c).1 (raise_data s c).2 h

theorem keeps (I : DataInvariant Inv) (i : Instr) (h : Inv s) : Keeps i s Inv Inv fun _ => True where
  start := h
  reg _ _ _ := trivial
  bank _ _ _ := trivial
  write _ k p bs hu _ := I.write k p bs hu
  type _ n T hu := I.type n T hu
  load _ k ea T hu _ := I.load k ea T hu
  store _ ea v _ hu := I.store ea v hu
  flush _ k hu _ := I.flush k hu
  reload _ k hu _ := I.reload k hu
  fill u k a hu _ := I.same u _ (ifill_data u k a).1 (ifill_data u k a).2 hu
  ireload u k hu _ := I.same u _ (ireload_data u k).1 (ireload_data u k).2 hu
  ie _ _ := I.same s _ rfl rfl h
  xct _ _ _ _ := I.same s _ rfl rfl h
  swiarg0 _ _ := I.same s _ rfl rfl h
  swiarg1 _ _ := I.same s _ rfl rfl h
  swiarg2 _ _ := I.same s _ rfl rfl h
  swiarg3 _ _ := I.same s _ rfl rfl h
  input a T _ _ _ := I.same (s.setType a T) _ rfl rfl (I.type a T h)
  output a T _ _ _ := I.same (s.setType a T) _ rfl rfl (I.type a T h)
  next u hu := I.same u _ (advance_data u).1 (advance_data u).2 hu
  jump _ _ := I.same s _ (by simp [State.jump]) (by simp [State.jump]) h
  raise c _ := I.raise c h
  swi _ _ _ _ := I.raise _ (I.same s _ rfl rfl h)
  returns _ _ _ _ := I.same s _ rfl rfl h

theorem step (I : DataInvariant Inv) {t : State} (hs : Inv s) (h : Machine.step s = .next t) : Inv t :=
  step_keeps (fun s => I.same s _ rfl rfl)
    (fun s _ => I.same s _ (by simp [State.withLine]) (by simp [State.withLine]))
    (fun s c => I.same s _ (enter_data s c).1 (enter_data s c).2) (fun _ c => I.raise c)
    (fun i _ _ hs => exec_keeps (I.keeps i hs)) hs h

end DataInvariant

/-! ### The canonical form of memory (O8) -/

theorem setType_mem (s : State) (n : DReg) (T : Ty) : (s.setType n T).mem = s.mem := State.setDlar_mem s _ _

theorem memoryForm_invariant : DataInvariant fun s => s.mem.wf = true where
  same _ _ _ hm h := by rwa [hm]
  type n T h := by rwa [setType_mem]
  write k p bs h := by rwa [writeBytes_mem]
  load k ea T h := wf_dload h k ea T
  store ea v h := wf_dataWrite h ea v
  flush k h := wf_dflush h k
  reload k h := by rwa [dreload_mem]

/-- Settles O8: memory is written only by operations that keep the canonical form. -/
theorem stepKeepsMemoryForm : Obligations.StepKeepsMemoryForm :=
  fun _ _ hs h => memoryForm_invariant.step hs h

/-! ### Sharing (O11) -/

theorem holdsLine_congr {s t : State} {b : LineNo} {k : PhysReg} (h : (t.dlar k).addr = (s.dlar k).addr) :
    t.HoldsLine b k ↔ s.HoldsLine b k := by
  rw [State.HoldsLine, State.HoldsLine, h]

/-- Every holder of line `b` but `k` has the data `l` and the dirty flag `d`. -/
def State.OthersHave (s : State) (k : PhysReg) (b : LineNo) (l : Line) (d : Bool) : Prop :=
  ∀ j, j ≠ k → s.HoldsLine b j → (s.dlar j).data = l ∧ (s.dlar j).dirty = d

/-- What a DLAR holds is what the other holders of its line have. -/
theorem State.shared.othersHave {s : State} (h : s.shared) {b : LineNo} {x : PhysReg} (hx : s.HoldsLine b x)
    (k : PhysReg) : s.OthersHave k b (s.dlar x).data (s.dlar x).dirty := fun j _ hj => h b j x hj hx

/-- What a DLAR gets with a new line is what the other holders of the line have (R67). -/
theorem obtain_othersHave {s : State} (h : s.shared) (k : PhysReg) (b : LineNo) :
    s.OthersHave k b (s.obtain k b).1 (s.obtain k b).2 := by
  unfold State.obtain
  cases ho : s.otherHolder k b with
  | some x => exact h.othersHave (otherHolder_some ho).1 k
  | none => exact fun j hjk hj => absurd (otherHolder_none ho j hj) hjk

/-- A DLAR may be given what the other holders of its line have. -/
theorem shared_setDlar {s : State} (h : s.shared) {k : PhysReg} {D : Dlar}
    (hD : isZeroReg k = false → s.OthersHave k (lineOf D.addr) D.data D.dirty) : (s.setDlar k D).shared := by
  cases hz : isZeroReg k with
  | true => rwa [State.setDlar, if_pos hz]
  | false =>
    have self : (s.setDlar k D).dlar k = D := by rw [dlar_setDlar, if_pos ⟨rfl, hz⟩]
    have other : ∀ {j}, j ≠ k → (s.setDlar k D).dlar j = s.dlar j := fun hj => by
      rw [dlar_setDlar, if_neg fun hh => hj hh.1]
    have holds : ∀ {b j}, j ≠ k → (s.setDlar k D).HoldsLine b j → s.HoldsLine b j := fun hj =>
      (holdsLine_congr (by rw [other hj])).1
    have joins : ∀ {b j}, j ≠ k → (s.setDlar k D).HoldsLine b k → (s.setDlar k D).HoldsLine b j →
        (s.dlar j).data = D.data ∧ (s.dlar j).dirty = D.dirty := fun {b j} hj hbk hbj => by
      have hb : lineOf D.addr = b := by rw [← hbk.2, self]
      exact hD hz j hj (hb ▸ holds hj hbj)
    intro b i j hi hj
    by_cases hik : i = k <;> by_cases hjk : j = k
    · rw [hik, hjk]; exact ⟨rfl, rfl⟩
    · subst hik
      obtain ⟨hd, hx⟩ := joins hjk hi hj
      rw [self, other hjk]
      exact ⟨hd.symm, hx.symm⟩
    · subst hjk
      rw [self, other hik]
      exact joins hik hj hi
    · rw [other hik, other hjk]
      exact h b i j (holds hik hi) (holds hjk hj)

/-- A change made to every holder of a line keeps sharing if the new line depends on the old line alone. -/
theorem shared_mapHolders {s : State} (h : s.shared) (b : LineNo) {f : Dlar → Dlar} (addr : ∀ D, (f D).addr = D.addr)
    (line : ∀ D E, D.data = E.data → D.dirty = E.dirty → (f D).data = (f E).data ∧ (f D).dirty = (f E).dirty) :
    (s.mapHolders b f).shared := by
  have holds : ∀ {b' j}, (s.mapHolders b f).HoldsLine b' j → s.HoldsLine b' j := fun {b' j} =>
    (holdsLine_congr (by rw [dlar_mapHolders]; split <;> simp [addr])).1
  intro b' i j hi hj
  replace hi := holds hi
  replace hj := holds hj
  obtain ⟨hd, hx⟩ := h b' i j hi hj
  rw [dlar_mapHolders, dlar_mapHolders]
  by_cases hb : b' = b
  · subst hb
    rw [if_pos ((holdsLine_iff _ _ _).1 hi), if_pos ((holdsLine_iff _ _ _).1 hj)]
    exact line _ _ hd hx
  · have no : ∀ {k}, s.HoldsLine b' k → ¬ s.holds b k = true := fun hk hh =>
      hb (hk.2.symm.trans ((holdsLine_iff _ _ _).2 hh).2)
    rw [if_neg (no hi), if_neg (no hj)]
    exact ⟨hd, hx⟩

theorem shared_same {s t : State} (hd : t.dlars = s.dlars) (h : s.shared) : t.shared := by
  have hd := dlar_congr hd
  simpa only [State.shared, State.HoldsLine, hd] using h

theorem shared_mem {s : State} (h : s.shared) (m : Memory) : ({ s with mem := m } : State).shared :=
  shared_same (s := s) rfl h

theorem shared_setType {s : State} (h : s.shared) (n : DReg) (T : Ty) : (s.setType n T).shared :=
  shared_setDlar h fun hz => h.othersHave ⟨hz, rfl⟩ _

theorem release_dlars (s : State) (k : PhysReg) : (s.release k).dlars = s.dlars := by
  unfold State.release
  split <;> rfl

theorem shared_writeHeld {s : State} (h : s.shared) (b : LineNo) (p : Nat) (bs : List Byte) : (s.writeHeld b p bs).shared :=
  shared_mapHolders h b (fun _ => rfl) fun _ _ hd _ => ⟨congrArg (patch · p bs) hd, rfl⟩

theorem shared_dload {s : State} (h : s.shared) (k : PhysReg) (ea : Addr) (T : Ty) : (s.dload k ea T).shared := by
  unfold State.dload
  split
  · exact h
  · split
    · next hl => exact shared_setDlar h fun hz => h.othersHave ⟨hz, hl⟩ k
    · have hr : (s.release k).shared := shared_same (release_dlars s k) h
      exact shared_setDlar hr fun _ => obtain_othersHave hr k _

theorem sharing_invariant : DataInvariant State.shared where
  same _ _ hd _ h := shared_same hd h
  type n T h := shared_setType h n T
  write k p bs h := by
    unfold State.writeBytes
    split
    · exact h
    · exact shared_writeHeld h _ p bs
  load k ea T h := shared_dload h k ea T
  store ea v h := by
    unfold State.dataWrite
    split
    · exact shared_writeHeld h _ _ _
    · exact shared_mem h _
  flush k h := by
    unfold State.dflush
    split
    · exact h
    · exact shared_mapHolders (shared_mem h _) _ (fun _ => rfl) fun _ _ hd _ => ⟨hd, rfl⟩
  reload k h := by
    unfold State.dreload
    split
    · exact h
    · exact shared_mapHolders h _ (fun _ => rfl) fun _ _ _ _ => ⟨rfl, rfl⟩

/-- Settles O11: a write goes to all holders of a line, and a DLAR that joins a line takes it from another holder. -/
theorem stepKeepsSharing : Obligations.StepKeepsSharing :=
  fun _ _ hs h => sharing_invariant.step hs h

end Sys2Proof.Machine
end

section
/-! The statements about `fetch` and about Group 9 (O42, O48 to O51): effects made on each register of a range, in order. -/

namespace Sys2Proof.Machine

/-- The outcome `r` has the effects of the items of a list, in order, and falls through. -/
def GivesInOrder {α : Type} (effect : State → State → α → Prop) (s : State) (l : List α) (r : Result) : Prop :=
  ∃ u t, r = .next t ∧ InOrder effect s l u ∧ FallsThrough u t

/-- An operation with an effect, made on each item of a list under an invariant that it keeps. -/
theorem foldl_givesInOrder {α : Type} {effect : State → State → α → Prop} {f : State → α → State} {P : State → Prop}
    (hf : ∀ s x, P s → effect s (f s x) x ∧ P (f s x)) (l : List α) {s : State} (hs : P s) :
    GivesInOrder effect s l (fallThrough (l.foldl f s)) :=
  ⟨_, _, rfl, by simpa using foldl_inOrder (g := id) P hf l s hs, advance_fallsThrough _⟩

/-! ### Filling ILARs: `fetch` and `fetchm` -/

/-- A range that ends before number 63 does not reach the `ipc` of its bank. -/
theorem ipcOf_notMem_bankRange (m : Mode) {first : Fin 64} {n : Nat} (h : first.val + n ≤ 63) :
    ipcOf m ∉ bankRange m first n := by
  intro hm
  obtain ⟨k, hk, he⟩ := List.mem_map.1 hm
  have hk := List.mem_range.1 hk
  have h63 := congrArg Fin.val (bankReg_eq_ipcOf he)
  simp only [Fin.val_add, Fin.val_ofNat] at h63
  omega

/-- ILARs other than the running `ipc` are filled in order (R230, R262). -/
theorem fillIlars_givesInOrder {s : State} {regs : List PhysReg} (h : ipcOf s.mode ∉ regs) (addrs : List Addr) :
    GivesInOrder (fun x y (f : PhysReg × Addr) => Filled x y f.1 f.2) s (regs.zip addrs)
      (fillIlars (regs.zip addrs) s) := by
  have hno : ((regs.zip addrs).any fun x => x.1 == ipcOf s.mode) = false := by
    rw [List.any_eq_false]
    intro x hx hi
    exact h (beq_iff_eq.1 hi ▸ (List.of_mem_zip (a := x.1) (b := x.2) hx).1)
  rw [fillIlars, hno]
  exact foldl_givesInOrder (P := fun _ => True) (fun s x _ => ⟨ifill_filled s x.1 x.2, trivial⟩) _ trivial

theorem fetchFrom_givesInOrder {s : State} {a : IReg} {j : Nat} (h : a.val + j < 63) (ea : Addr) :
    GivesInOrder (fun x y (f : PhysReg × Addr) => Filled x y f.1 f.2) s
      ((bankRange s.mode a (j + 1)).zip ((List.range (j + 1)).map fun k => ea + BitVec.ofNat 32 (128 * k)))
      (fetchFrom a ea j s) := by
  rw [fetchFrom, regRange_some (.inr (by omega))]
  exact fillIlars_givesInOrder (ipcOf_notMem_bankRange _ (by omega)) _

/-- Settles O42: both forms are `fetchFrom` at their address. -/
theorem fetchFillsConsecutiveIlars : Obligations.FetchFillsConsecutiveIlars := by
  intro s a b c imm j h p hp
  have he : exec p.1 s = fetchFrom a p.2 j s := by
    obtain rfl | rfl : p = _ ∨ p = _ := by simpa using hp
    · rw [← toU32_eq]; rfl
    · rfl
  rw [he]
  exact fetchFrom_givesInOrder h p.2

theorem readStream_eq (s : State) (slots : List (DReg × Nat)) :
    s.readStream slots = slots.map fun x => BitVec.ofInt 32 (s.lane x.1 x.2).val := by
  simp only [State.readStream, toU32_eq]

theorem fetchMultiple_givesInOrder {s : State} {bank : Mode} {a : IReg} {b : DReg} {n : Nat}
    {addrs : List (DReg × Nat)} (hb : BankOpen s.mode bank) (hr : InBank a n) (hs : s.stream b n = some addrs)
    (hi : ipcOf s.mode ∉ bankRange bank a n) :
    GivesInOrder (fun x y (f : PhysReg × Addr) => Filled x y f.1 f.2) s
      ((bankRange bank a n).zip (addrs.map fun x => BitVec.ofInt 32 (s.lane x.1 x.2).val))
      (fetchMultiple bank a b n s) := by
  rw [fetchMultiple, bankAllowed_of hb, regRange_some hr, hs, ← readStream_eq]
  exact fillIlars_givesInOrder hi _

/-- Settles O49: either S is `fetchMultiple` of its bank. -/
theorem fetchmFillsEachDestination : Obligations.FetchmFillsEachDestination := by
  intro s bank a b n addrs hb hr hs hi
  cases bank <;> exact fetchMultiple_givesInOrder hb hr hs hi

/-! ### Loading DLARs: `ldm` -/

theorem ofCode_code (T : Ty) : Ty.ofCode T.code = some T := by cases T <;> rfl

/-- A stream of the codes of types is read as those types (R261). -/
theorem typesOf_codes {types : List Ty} {codes : List (BitVec 32)} (h : types.map Ty.code = codes.map BitVec.toNat) :
    typesOf codes = some types := by
  calc codes.mapM (Ty.ofCode ∘ BitVec.toNat)
      = (codes.map BitVec.toNat).mapM Ty.ofCode := List.mapM_map.symm
    _ = (types.map Ty.code).mapM Ty.ofCode := by rw [h]
    _ = types.mapM (Ty.ofCode ∘ Ty.code) := List.mapM_map
    _ = types.mapM (fun T => pure (id T)) := by simp only [Function.comp_def, ofCode_code]; rfl
    _ = some types := by rw [List.mapM_pure, List.map_id]; rfl

theorem loadMultiple_givesInOrder {s : State} {bank : Mode} {a b c : DReg} {n : Nat} {addrs codes : List (DReg × Nat)}
    {types : List Ty} (hw : s.mem.wf = true) (hb : BankOpen s.mode bank) (hr : InBank a n)
    (hs : s.stream b n = some addrs) (hc : s.stream c n = some codes)
    (ht : types.map Ty.code = (codes.map fun x => (BitVec.ofInt 32 (s.lane x.1 x.2).val).toNat))
    (hno : ∀ x ∈ addrs ++ codes, s.reg x.1 ∉ bankRange bank a n) :
    GivesInOrder (fun x y (l : PhysReg × Addr × Ty) => Loaded x y l.1 l.2.1 l.2.2) s
      ((bankRange bank a n).zip ((addrs.map fun x => BitVec.ofInt 32 (s.lane x.1 x.2).val).zip types))
      (loadMultiple bank a b c n s) := by
  have htypes : typesOf (s.readStream codes) = some types :=
    typesOf_codes (by rw [ht, readStream_eq, List.map_map]; rfl)
  have hdisjoint : ((addrs ++ codes).any fun x => (bankRange bank a n).contains (s.reg x.1)) = false := by
    rw [List.any_eq_false]
    intro x hx hm
    exact hno x hx (List.contains_iff_mem.1 hm)
  rw [loadMultiple, bankAllowed_of hb, regRange_some hr, hs, hc]
  dsimp only
  rw [htypes]
  dsimp only
  rw [hdisjoint, ← readStream_eq]
  exact foldl_givesInOrder (P := fun s => s.mem.wf = true)
    (fun s x hw => ⟨dload_loaded s hw x.1 x.2.1 x.2.2, wf_dload hw x.1 x.2.1 x.2.2⟩) _ hw

/-- Settles O48: either S is `loadMultiple` of its bank. -/
theorem ldmLoadsEachDestination : Obligations.LdmLoadsEachDestination := by
  intro s bank a b c n addrs codes types hw hb hr hs hc ht hno
  cases bank <;> exact loadMultiple_givesInOrder hw hb hr hs hc ht hno

/-! ### `reload` and `flush` -/

/-- The common form of `reload` and `flush`, for an operation with an effect and an invariant that it keeps. -/
theorem onRange_givesInOrder {effect : State → State → PhysReg → Prop} {op : State → PhysReg → State} {P : State → Prop}
    (hop : ∀ s k, P s → effect s (op s k) k ∧ P (op s k)) {s : State} {bank : Mode} {first : Fin 64} {n : Nat}
    (hs : P s) (hb : BankOpen s.mode bank) (hr : InBank first n) (code : BitVec 32) :
    GivesInOrder effect s (bankRange bank first n) (onRange code bank op first n s) := by
  rw [onRange, bankAllowed_of hb, regRange_some hr]
  exact foldl_givesInOrder hop _ hs

theorem dreload_givesInOrder {s : State} {bank : Mode} {a : DReg} {n : Nat} (hb : BankOpen s.mode bank)
    (hr : InBank a n) : GivesInOrder Reloaded s (bankRange bank a n) (onRange 0x14 bank State.dreload a n s) :=
  onRange_givesInOrder (P := fun _ => True) (fun s k _ => ⟨dreload_reloaded s k, trivial⟩) trivial hb hr _

theorem dflush_givesInOrder {s : State} {bank : Mode} {a : DReg} {n : Nat} (hw : s.mem.wf = true)
    (hb : BankOpen s.mode bank) (hr : InBank a n) :
    GivesInOrder Flushed s (bankRange bank a n) (onRange 0x13 bank State.dflush a n s) :=
  onRange_givesInOrder (P := fun s => s.mem.wf = true) (fun s k hw => ⟨dflush_flushed s hw k, wf_dflush hw k⟩) hw hb hr _

theorem ireload_givesInOrder {s : State} {bank : Mode} {a : IReg} {n : Nat} (hb : BankOpen s.mode bank)
    (hr : InBank a n) : GivesInOrder InstrReloaded s (bankRange bank a n) (onRange 0x14 bank State.ireload a n s) :=
  onRange_givesInOrder (P := fun _ => True) (fun s k _ => ⟨ireload_reloaded s k, trivial⟩) trivial hb hr _

/-- Settles O50: `flush` keeps memory in the form in which the next line is written. -/
theorem reloadAndFlushEachDlar : Obligations.ReloadAndFlushEachDlar := by
  intro s bank a n hw hb hr
  cases bank <;> exact ⟨dreload_givesInOrder hb hr, dflush_givesInOrder hw hb hr⟩

/-- Settles O51: either S is `ireload` on each ILAR of the range. -/
theorem reloadEachIlar : Obligations.ReloadEachIlar := by
  intro s bank a n hb hr
  cases bank <;> exact ireload_givesInOrder hb hr

end Sys2Proof.Machine
end

section
/-! The statements about stores, `cpy.v` and IO space (O40, O55, O59, O60). -/

namespace Sys2Proof.Machine

/-! ### Stores -/

theorem align_eq (T : Ty) (a : Addr) : align T a = BitVec.ofNat 32 (alignNat T a.toNat) := by
  rw [← align_toNat, BitVec.ofNat_toNat, BitVec.setWidth_eq]

theorem baseImm_eq (s : State) (b : DReg) (imm : Int) : baseImm s b imm = BitVec.ofInt 32 ((s.scalar b).val + imm) := by
  rw [baseImm, toU32_eq, BitVec.ofInt_add]

/-- The bytes of the element that the offset of `d[a]` selects at a type (R27, R60). -/
theorem scalarAt_bytes (s : State) (a : DReg) (T : Ty) :
    (s.scalarAt (s.d a) T).bytes s.config.byteOrder = s.dataBytes a (s.scalarPlace T a) T.size := by
  rw [State.dataBytes_eq_slice, State.scalarPlace_eq]
  exact bytes_elem _ _ _ _

theorem storeTo_gives {s : State} {i : Instr} {T : Ty} {a b : DReg} {imm : Int} (hw : s.mem.wf = true)
    (he : exec i s = storeTo T a b imm s) : GivesStore s i a b imm T := by
  have hset := setType_typeSet s a T
  have hwt : (s.setType a T).mem.wf = true := by rwa [setType_mem]
  unfold GivesStore
  rw [he, storeTo]
  cases s.config.storeMode with
  | scalarWrite =>
    refine ⟨_, _, _, rfl, hset, ?_, advance_fallsThrough _⟩
    rw [← baseImm_eq, ← align_eq, ← scalarAt_bytes]
    exact dataWrite_stored _ hwt _ _
  | lineRetag =>
    refine ⟨_, _, _, rfl, hset, ?_, advance_fallsThrough _⟩
    rw [← baseImm_eq]
    exact retag_retagged _ hwt _ _ _

/-- Settles O40: the eight stores are `storeTo` at their types. -/
theorem storeResult : Obligations.StoreResult := by
  intro s a b imm hw p hp
  refine storeTo_gives hw ?_
  revert p
  simp only [List.forall_mem_cons, List.not_mem_nil, false_imp_iff, implies_true, and_true]
  exact ⟨rfl, rfl, rfl, rfl, rfl, rfl, rfl, rfl⟩

/-! ### `cpy.v` -/

theorem line_toList_eq (l : Line) : l.toList = (List.range 128).map (byteAt l) := by
  refine list_ext_getD (by simp) fun j hj => ?_
  rw [line_toList_length] at hj
  rw [line_toList_getD l hj]
  simp [hj]

theorem writeVector_lineWritten (s : State) (a : DReg) (l : Line) :
    LineWritten s (s.writeVector a l) (s.reg a) 0 ((List.range 128).map (byteAt l)) := by
  rw [← line_toList_eq]
  exact writeBytes_lineWritten s _ _ _

theorem cpyFromSwiarg_gives {s : State} {r : Result} {c : BitVec 32} {a : DReg} {l : Line} (hm : s.mode = .supervisor)
    (he : r = supervisorOnly c s (fallThrough (s.writeVector a l))) :
    ∃ u t, r = .next t ∧ LineWritten s u (s.reg a) 0 ((List.range 128).map (byteAt l)) ∧ FallsThrough u t :=
  ⟨_, _, he.trans (supervisorOnly_of hm _ _), writeVector_lineWritten s a l, advance_fallsThrough _⟩

theorem supervisorOnly_fallsThrough {s v : State} {r : Result} {c : BitVec 32} (hm : s.mode = .supervisor)
    (he : r = supervisorOnly c s (fallThrough v)) : ∃ t, r = .next t ∧ FallsThrough v t :=
  ⟨_, he.trans (supervisorOnly_of hm _ _), advance_fallsThrough _⟩

/-- Settles O55: in supervisor mode each `cpy.v` writes one line, into dA or into the state. -/
theorem cpyOfSwiargResult : Obligations.CpyOfSwiargResult := by
  intro s a hm
  simp only [List.forall_mem_cons, List.not_mem_nil, false_imp_iff, implies_true, and_true]
  refine ⟨⟨?_, ?_, ?_, ?_⟩, ?_, ?_, ?_, ?_⟩
  · exact cpyFromSwiarg_gives hm rfl
  · exact cpyFromSwiarg_gives hm rfl
  · exact cpyFromSwiarg_gives hm rfl
  · exact cpyFromSwiarg_gives hm rfl
  · exact supervisorOnly_fallsThrough hm rfl
  · exact supervisorOnly_fallsThrough hm rfl
  · exact supervisorOnly_fallsThrough hm rfl
  · exact supervisorOnly_fallsThrough hm rfl

/-! ### IO space -/

theorem dataBytes_all (s : State) (a : DReg) : s.dataBytes a 0 128 = (s.d a).data.toList := by
  rw [line_toList_eq, State.dataBytes]
  simp only [Nat.zero_add]

theorem baseIndex_eq (s : State) (b c : DReg) :
    baseIndex s b c = BitVec.ofInt 32 ((s.scalar b).val + (s.scalar c).val) := by
  rw [baseIndex, toU32_eq, toU32_eq, BitVec.ofInt_add]

theorem setType_reg (s : State) (a : DReg) (T : Ty) (n : DReg) : (s.setType a T).reg n = s.reg n := by
  rw [State.reg, (setType_typeSet s a T).rest.mode, State.reg]

/-- Writing a value made of `size(T)` bytes into the scalar of `d[a]` at `T` writes the bytes (R27, R60). -/
theorem writeScalar_ofBytes (s : State) (a : DReg) (T : Ty) {bs : List Byte} (h : bs.length = T.size) :
    LineWritten s (s.writeScalar a (TVal.ofBytes s.config.byteOrder T bs)) (s.reg a) (s.scalarPlace T a) bs := by
  have := writeBytes_lineWritten s (s.reg a) (s.scalarPlace T a) bs
  rw [State.writeScalar, State.writeElem, bytes_ofBytes _ _ _ h]
  exact this

/-- The state after an IO read with the type set, in terms of the log and script before (R295). -/
theorem ioRead_setType (s : State) (a : DReg) (T : Ty) (ea : Addr) (n : Nat) :
    (s.setType a T).ioRead ea n =
      { s.setType a T with ioLog := s.ioLog ++ [.read ea n], ioScript := s.ioScript.drop n } := by
  have hset := (setType_typeSet s a T).rest
  rw [State.ioRead, hset.ioLog, hset.ioScript]

theorem ioWrite_setType (s : State) (a : DReg) (T : Ty) (ea : Addr) (bs : List Byte) :
    (s.setType a T).ioWrite ea bs = { s.setType a T with ioLog := s.ioLog ++ [.write ea bs] } := by
  rw [State.ioWrite, (setType_typeSet s a T).rest.ioLog]

theorem ioAnswer_setType (s : State) (a : DReg) (T : Ty) (ea : Addr) (n : Nat) : (s.setType a T).ioAnswer ea n =
    (List.range n).map fun j => s.ioScript.getD j (Config.ioByteAt s.ioLog.length (ea + BitVec.ofNat 32 j)) := by
  have hset := (setType_typeSet s a T).rest
  refine List.map_congr_left fun j _ => ?_
  rw [State.ioByte, hset.ioLog, hset.ioScript]

/-- What O59 says of an outcome that reads `n` bytes into the line of dA, at a place that the state with the type set
gives. -/
def GivesInput (s : State) (a b c : DReg) (T : Ty) (n : Nat) (place : State → Nat) (r : Result) : Prop :=
  ∃ v u t, r = .next t ∧ TypeSet s v a T ∧
    LineWritten { v with
        ioLog := s.ioLog ++ [.read (BitVec.ofInt 32 ((v.scalar b).val + (v.scalar c).val)) n]
        ioScript := s.ioScript.drop n } u (s.reg a) (place v)
      ((List.range n).map fun j => s.ioScript.getD j (Config.ioByteAt s.ioLog.length
        (BitVec.ofInt 32 ((v.scalar b).val + (v.scalar c).val) + BitVec.ofNat 32 j))) ∧
    FallsThrough u t

/-- What O60 says of an outcome that hands over bytes which the state with the type set gives. -/
def GivesOutput (s : State) (a b c : DReg) (T : Ty) (bytes : State → List Byte) (r : Result) : Prop :=
  ∃ v t, r = .next t ∧ TypeSet s v a T ∧
    FallsThrough { v with
      ioLog := s.ioLog ++ [.write (BitVec.ofInt 32 ((v.scalar b).val + (v.scalar c).val)) (bytes v)] } t

theorem ioRead_gives {s u : State} {T : Ty} {a b c : DReg} {n : Nat} {place : State → Nat}
    (h : LineWritten ((s.setType a T).ioRead (baseIndex (s.setType a T) b c) n) u (s.reg a) (place (s.setType a T))
      ((s.setType a T).ioAnswer (baseIndex (s.setType a T) b c) n)) :
    GivesInput s a b c T n place (fallThrough u) := by
  refine ⟨_, _, _, rfl, setType_typeSet s a T, ?_, advance_fallsThrough _⟩
  rwa [← baseIndex_eq, ← ioRead_setType, ← ioAnswer_setType]

theorem inScalar_gives (s : State) (T : Ty) (a b c : DReg) :
    GivesInput s a b c T T.size (fun v => v.scalarPlace T a) (inScalar T a b c s) := by
  refine ioRead_gives ?_
  rw [← setType_reg s a T]
  exact writeScalar_ofBytes _ a T (by simp [State.ioAnswer])

theorem inVector_gives (s : State) (T : Ty) (a b c : DReg) :
    GivesInput s a b c T 128 (fun _ => 0) (inVector T a b c s) := by
  refine ioRead_gives ?_
  rw [← setType_reg s a T]
  exact writeBytes_lineWritten _ _ _ _

theorem ioWrite_gives {s : State} {T : Ty} {a b c : DReg} {bs : List Byte} {bytes : State → List Byte}
    (h : bs = bytes (s.setType a T)) :
    GivesOutput s a b c T bytes (fallThrough ((s.setType a T).ioWrite (baseIndex (s.setType a T) b c) bs)) := by
  refine ⟨_, _, rfl, setType_typeSet s a T, ?_⟩
  rw [← baseIndex_eq, ← ioWrite_setType, ← h]
  exact advance_fallsThrough _

theorem outScalar_gives (s : State) (T : Ty) (a b c : DReg) :
    GivesOutput s a b c T (fun v => v.dataBytes a (v.scalarPlace T a) T.size) (outScalar T a b c s) :=
  ioWrite_gives (scalarAt_bytes _ a T)

theorem outVector_gives (s : State) (T : Ty) (a b c : DReg) :
    GivesOutput s a b c T (fun v => v.dataBytes a 0 128) (outVector T a b c s) :=
  ioWrite_gives (dataBytes_all _ a).symm

/-- Settles O59: the sixteen forms are `inScalar` and `inVector` at their types. -/
theorem inputResult : Obligations.InputResult := by
  intro s a b c
  simp only [List.forall_mem_cons, List.not_mem_nil, false_imp_iff, implies_true, and_true]
  have hs := fun T => inScalar_gives s T a b c
  have hv := fun T => inVector_gives s T a b c
  exact ⟨⟨hs .u8, hs .s8, hs .u16, hs .s16, hs .u32, hs .s32, hs .u64, hs .s64⟩,
    hv .u8, hv .s8, hv .u16, hv .s16, hv .u32, hv .s32, hv .u64, hv .s64⟩

/-- Settles O60: the sixteen forms are `outScalar` and `outVector` at their types. -/
theorem outputResult : Obligations.OutputResult := by
  intro s a b c
  simp only [List.forall_mem_cons, List.not_mem_nil, false_imp_iff, implies_true, and_true]
  have hs := fun T => outScalar_gives s T a b c
  have hv := fun T => outVector_gives s T a b c
  exact ⟨⟨hs .u8, hs .s8, hs .u16, hs .s16, hs .u32, hs .s32, hs .u64, hs .s64⟩,
    hv .u8, hv .s8, hv .u16, hv .s16, hv .u32, hv .s32, hv .u64, hv .s64⟩

end Sys2Proof.Machine
end

section
/-! The statements about the encoding (O1 to O5, O56). -/

namespace Sys2Proof

/-! ### The word of each encoding line, field by field (R91 to R102)

Each line is `pack` of a group, two register fields and sixteen low bits: first what every line has, then the fields of
the low bits, line by line. -/

section
variable {g low : Nat} (a b c d : Fin 64)

theorem header_pack (hg : g < 16) (hl : low < 2 ^ 16) :
    field (pack g a b low) 31 28 = g ∧ fieldA (pack g a b low) = a ∧ fieldB (pack g a b low) = b ∧
      field (pack g a b low) 21 16 = b.val := by
  refine ⟨field_pack_group hg a b hl, fieldA_pack hg a b hl, fieldB_pack hg a b hl, ?_⟩
  rw [field, pack_toNat hg a b hl]
  omega

theorem fmtABC_low_lt (hl : low < 1024) : c.val * 2 ^ 10 + low < 2 ^ 16 := by
  have hc := c.isLt
  omega

@[simp] theorem header_fmtABC (hg : g < 16) (hl : low < 1024) :
    field (fmtABC g a b c low) 31 28 = g ∧ fieldA (fmtABC g a b c low) = a ∧ fieldB (fmtABC g a b c low) = b ∧
      field (fmtABC g a b c low) 21 16 = b.val :=
  header_pack a b hg (fmtABC_low_lt c hl)

@[simp] theorem fieldC_fmtABC (hg : g < 16) (hl : low < 1024) : fieldC (fmtABC g a b c low) = c := by
  apply Fin.ext
  rw [fmtABC, fieldC_pack hg a b (fmtABC_low_lt c hl)]
  omega

/-- A field below `c` is one of the low ten bits. -/
@[simp] theorem field_fmtABC_low (hg : g < 16) (hl : low < 1024) {hi lo : Nat} (h : hi < 10) (hlo : lo ≤ hi) :
    field (fmtABC g a b c low) hi lo = low / 2 ^ lo % 2 ^ (hi + 1 - lo) := by
  have hsplit : (2 : Nat) ^ 10 = 2 ^ lo * (2 ^ (hi + 1 - lo) * 2 ^ (9 - hi)) := by
    rw [← pow_add, ← pow_add]
    congr 1
    omega
  have hsum : c.val * 2 ^ 10 + low = low + 2 ^ lo * (2 ^ (hi + 1 - lo) * (2 ^ (9 - hi) * c.val)) := by
    rw [hsplit]
    ring
  rw [fmtABC, field_pack_low hg a b (fmtABC_low_lt c hl) (by omega) hlo, hsum,
    Nat.add_mul_div_left _ _ (by positivity), Nat.add_mul_mod_self_left]

/-- Bits [15:10] are `c`, bits [15:4] hold `c` above the low bits. -/
@[simp] theorem field_fmtABC_high (hg : g < 16) (hl : low < 1024) :
    field (fmtABC g a b c low) 15 10 = c.val ∧ field (fmtABC g a b c low) 15 4 = c.val * 64 + low / 16 := by
  have hc := c.isLt
  refine ⟨?_, ?_⟩
  all_goals
    rw [fmtABC, field_pack_low hg a b (fmtABC_low_lt c hl) (by decide) (by decide)]
    omega

end

section
variable {g o : Nat} (a b c d : Fin 64)

theorem fmtABCD_low_lt (ho : o < 16) : d.val * 2 ^ 4 + o < 1024 := by
  have hd := d.isLt
  omega

@[simp] theorem header_fmtABCD (hg : g < 16) (ho : o < 16) :
    field (fmtABCD g a b c d o) 31 28 = g ∧ fieldA (fmtABCD g a b c d o) = a ∧ fieldB (fmtABCD g a b c d o) = b ∧
      field (fmtABCD g a b c d o) 21 16 = b.val :=
  header_fmtABC a b c hg (fmtABCD_low_lt d ho)

@[simp] theorem fieldC_fmtABCD (hg : g < 16) (ho : o < 16) : fieldC (fmtABCD g a b c d o) = c :=
  fieldC_fmtABC a b c hg (fmtABCD_low_lt d ho)

@[simp] theorem fieldD_fmtABCD (hg : g < 16) (ho : o < 16) : fieldD (fmtABCD g a b c d o) = d := by
  have hd := d.isLt
  apply Fin.ext
  rw [fmtABCD, fmtABC, fieldD_pack hg a b (fmtABC_low_lt c (fmtABCD_low_lt d ho))]
  omega

@[simp] theorem opcode_fmtABCD (hg : g < 16) (ho : o < 16) : field (fmtABCD g a b c d o) 3 0 = o := by
  rw [fmtABCD, field_fmtABC_low a b c hg (fmtABCD_low_lt d ho) (by decide) (by decide)]
  omega

/-- Bits [15:4] are `c` and `d`. -/
@[simp] theorem field_fmtABCD_high (hg : g < 16) (ho : o < 16) :
    field (fmtABCD g a b c d o) 15 4 = c.val * 64 + d.val := by
  rw [fmtABCD, (field_fmtABC_high a b c hg (fmtABCD_low_lt d ho)).2]
  omega

end

section
variable {g o : Nat} (a b : Fin 64) (imm : Int)

theorem fmtImm_low_lt (ho : o < 16) : (BitVec.ofInt 12 imm).toNat * 2 ^ 4 + o < 2 ^ 16 := by
  have hn := (BitVec.ofInt 12 imm).isLt
  omega

@[simp] theorem header_fmtImm (hg : g < 16) (ho : o < 16) :
    field (fmtImm g a b imm o) 31 28 = g ∧ fieldA (fmtImm g a b imm o) = a ∧ fieldB (fmtImm g a b imm o) = b ∧
      field (fmtImm g a b imm o) 21 16 = b.val :=
  header_pack a b hg (fmtImm_low_lt imm ho)

@[simp] theorem opcode_fmtImm (hg : g < 16) (ho : o < 16) : field (fmtImm g a b imm o) 3 0 = o := by
  rw [fmtImm, field_pack_low hg a b (fmtImm_low_lt imm ho) (by decide) (by decide)]
  omega

/-- A displacement in range survives its twelve bits (R97). -/
@[simp] theorem simm12_fmtImm (hg : g < 16) (ho : o < 16) (hi : fitsSimm12 imm = true) :
    simm12 (fmtImm g a b imm o) = imm := by
  have hfield : field (fmtImm g a b imm o) 15 4 = (BitVec.ofInt 12 imm).toNat := by
    rw [fmtImm, field_pack_low hg a b (fmtImm_low_lt imm ho) (by decide) (by decide)]
    omega
  obtain ⟨hmin, hmax⟩ : -2048 ≤ imm ∧ imm ≤ 2047 := by simpa [fitsSimm12] using hi
  rw [simm12, hfield, BitVec.ofNat_toNat, BitVec.setWidth_eq]
  exact BitVec.toInt_ofInt_eq_self (by decide) hmin (by omega)

end

section
variable {j : Nat} (a b c : Fin 64) (imm : Int)

@[simp] theorem fields_fmtFetchReg (hj : j < 16) :
    field (fmtFetchReg a b c j) 31 28 = 7 ∧ fieldA (fmtFetchReg a b c j) = a ∧ fieldB (fmtFetchReg a b c j) = b ∧
      fieldC (fmtFetchReg a b c j) = c ∧ field (fmtFetchReg a b c j) 0 0 = 0 ∧
      field (fmtFetchReg a b c j) 9 5 = 0 ∧ field (fmtFetchReg a b c j) 4 1 = j := by
  have hl : j * 2 < 1024 := by omega
  obtain ⟨hg, ha, hb, -⟩ := header_fmtABC (g := 7) a b c (by decide) hl
  refine ⟨hg, ha, hb, fieldC_fmtABC a b c (by decide) hl, ?_, ?_, ?_⟩
  all_goals
    rw [fmtFetchReg, field_fmtABC_low a b c (by decide) hl (by decide) (by decide)]
    omega

theorem fmtFetchImm_low_lt (hj : j < 16) : (BitVec.ofInt 11 imm).toNat * 2 ^ 5 + j * 2 + 1 < 2 ^ 16 := by
  have hn := (BitVec.ofInt 11 imm).isLt
  omega

@[simp] theorem fields_fmtFetchImm (hj : j < 16) :
    field (fmtFetchImm a b imm j) 31 28 = 7 ∧ fieldA (fmtFetchImm a b imm j) = a ∧
      fieldB (fmtFetchImm a b imm j) = b ∧ field (fmtFetchImm a b imm j) 0 0 = 1 ∧
      field (fmtFetchImm a b imm j) 4 1 = j := by
  have hl := fmtFetchImm_low_lt imm hj
  obtain ⟨hg, ha, hb, -⟩ := header_pack (g := 7) a b (by decide) hl
  refine ⟨hg, ha, hb, ?_, ?_⟩
  all_goals
    rw [fmtFetchImm, field_pack_low (by decide) a b hl (by decide) (by decide)]
    omega

/-- A displacement in range survives its eleven bits (R98). -/
@[simp] theorem isimm11_fmtFetchImm (hi : fitsIsimm11 imm = true) (hj : j < 16) :
    isimm11 (fmtFetchImm a b imm j) = imm := by
  have hfield : field (fmtFetchImm a b imm j) 15 5 = (BitVec.ofInt 11 imm).toNat := by
    rw [fmtFetchImm, field_pack_low (by decide) a b (fmtFetchImm_low_lt imm hj) (by decide) (by decide)]
    omega
  obtain ⟨hmin, hmax⟩ : -1024 ≤ imm ∧ imm ≤ 1023 := by simpa [fitsIsimm11] using hi
  rw [isimm11, hfield, BitVec.ofNat_toNat, BitVec.setWidth_eq]
  exact BitVec.toInt_ofInt_eq_self (by decide) hmin (by omega)

end

section
variable {i j vo : Nat} (a b : Fin 64)

theorem fmtJump_low_lt (hi : i < 32) (hj : j < 32) (hv : vo < 32) : i * 2 ^ 10 + j * 2 ^ 5 + vo < 2 ^ 16 := by omega

@[simp] theorem header_fmtJump (hi : i < 32) (hj : j < 32) (hv : vo < 32) :
    field (fmtJump a b i j vo) 31 28 = 8 ∧ fieldA (fmtJump a b i j vo) = a ∧ fieldB (fmtJump a b i j vo) = b ∧
      field (fmtJump a b i j vo) 21 16 = b.val :=
  header_pack a b (by decide) (fmtJump_low_lt hi hj hv)

/-- Bit 15, the two indices apart and together, `v`, the opcode (R99, R100). -/
@[simp] theorem field_fmtJump_low (hi : i < 32) (hj : j < 32) (hv : vo < 32) :
    field (fmtJump a b i j vo) 15 15 = 0 ∧ field (fmtJump a b i j vo) 14 10 = i ∧
      field (fmtJump a b i j vo) 9 5 = j ∧ field (fmtJump a b i j vo) 14 5 = i * 32 + j ∧
      field (fmtJump a b i j vo) 4 4 = vo / 16 ∧ field (fmtJump a b i j vo) 3 0 = vo % 16 := by
  refine ⟨?_, ?_, ?_, ?_, ?_, ?_⟩
  all_goals
    rw [fmtJump, field_pack_low (by decide) a b (fmtJump_low_lt hi hj hv) (by decide) (by decide)]
    omega

end

section
variable {n so : Nat} (a b c : Fin 64)

theorem fmtLar_low_lt (hn : n < 64) (hs : so < 16) : n * 2 ^ 4 + so < 1024 := by omega

@[simp] theorem header_fmtLar (hn : n < 64) (hs : so < 16) :
    field (fmtLar a b c n so) 31 28 = 9 ∧ fieldA (fmtLar a b c n so) = a ∧ fieldB (fmtLar a b c n so) = b ∧
      field (fmtLar a b c n so) 21 16 = b.val :=
  header_fmtABC a b c (by decide) (fmtLar_low_lt hn hs)

@[simp] theorem fieldC_fmtLar (hn : n < 64) (hs : so < 16) :
    fieldC (fmtLar a b c n so) = c ∧ field (fmtLar a b c n so) 15 10 = c.val :=
  ⟨fieldC_fmtABC a b c (by decide) (fmtLar_low_lt hn hs),
    (field_fmtABC_high a b c (by decide) (fmtLar_low_lt hn hs)).1⟩

/-- The count, `S`, the opcode (R96, R102). -/
@[simp] theorem field_fmtLar_low (hn : n < 64) (hs : so < 16) : field (fmtLar a b c n so) 9 4 = n ∧
    field (fmtLar a b c n so) 3 3 = so / 8 ∧ field (fmtLar a b c n so) 2 0 = so % 8 := by
  refine ⟨?_, ?_, ?_⟩
  all_goals
    rw [fmtLar, field_fmtABC_low a b c (by decide) (fmtLar_low_lt hn hs) (by decide) (by decide)]
    omega

end

/-! ### Decoding the encoder's word -/

/-- Each row of a group has the fields of its encoding line, so that the decoder of the group takes the row's branch. -/
theorem decode_encode {i : Instr} (h : i.wellFormed = true) : decode (encode i) = .ok i := by
  cases i with
  | addS a b c | addV a b c | subS a b c | subV a b c | sltS a b c | sltV a b c | mulS a b c | mulV a b c
  | andS a b c | andV a b c | orS a b c | orV a b c | xorS a b c | xorV a b c | shlS a b c | shlV a b c
  | shrS a b c | shrV a b c | rolS a b c | rolV a b c | rorS a b c | rorV a b c | addAddrS a b c
  | addAddrV a b c | shlAddrS a b c | shlAddrV a b c | addIaddrS a b c | addIaddrV a b c =>
    simp [encode, decode, decodeGroup0, needZero, scalarOrVector]
  | divS a b c d | divV a b c d =>
    simp [encode, decode, decodeGroup0]
  | addR a b | mulR a b | maxR a b | minR a b | andR a b | orR a b | xorR a b =>
    simp [encode, decode, decodeGroup1, needZero]
  | ldu8i a b imm | lds8i a b imm | ldu16i a b imm | lds16i a b imm | ldu32i a b imm | lds32i a b imm
  | ldu64i a b imm | lds64i a b imm =>
    have hi : fitsSimm12 imm = true := h
    simp [encode, decode, decodeGroup2, hi]
  | ldu8iAddr a b imm | lds8iAddr a b imm | ldu16iAddr a b imm | lds16iAddr a b imm | ldu32iAddr a b imm
  | lds32iAddr a b imm | ldu64iAddr a b imm | lds64iAddr a b imm =>
    have hi : fitsSimm12 imm = true := h
    simp [encode, decode, decodeGroup3, hi]
  | ldu8 a b c | lds8 a b c | ldu16 a b c | lds16 a b c | ldu32 a b c | lds32 a b c | ldu64 a b c | lds64 a b c =>
    simp [encode, decode, decodeGroup4, needZero]
  | stu8i a b imm | sts8i a b imm | stu16i a b imm | sts16i a b imm | stu32i a b imm | sts32i a b imm
  | stu64i a b imm | sts64i a b imm =>
    have hi : fitsSimm12 imm = true := h
    simp [encode, decode, decodeGroup5, hi]
  | dpu8 a b | dps8 a b | dpu16 a b | dps16 a b | dpu32 a b | dps32 a b | dpu64 a b | dps64 a b =>
    simp [encode, decode, decodeGroup6, needZero]
  | fetchReg a b c j =>
    have hj : j < 16 := of_decide_eq_true h
    simp [encode, decode, decodeGroup7, needZero, hj]
  | fetchImm a b imm j =>
    obtain ⟨hi, hj⟩ : fitsIsimm11 imm = true ∧ j < 16 := by simpa [Instr.wellFormed, fitsJimm4] using h
    simp [encode, decode, decodeGroup7, hi, hj]
  | selS a b i j | selV a b i j =>
    obtain ⟨hi, hj⟩ : i < 32 ∧ j < 32 := by simpa [Instr.wellFormed, fitsIndex5] using h
    simp [encode, decode, decodeGroup8, needZero, scalarOrVector, hi, hj]
  | jzS a b i | jzV a b i | jnzS a b i | jnzV a b i =>
    have hi : i < 32 := of_decide_eq_true h
    simp [encode, decode, decodeGroup8, needZero, scalarOrVector, hi]
  | retiS a | retiV a | retxS a | retxV a =>
    simp [encode, decode, decodeGroup8, needZero, scalarOrVector]
  | getaddrsU a b n | getaddrsS a b n | getaddrsIU a b n | getaddrsIS a b n | gettypesU a b n | gettypesS a b n
  | fetchmU a b n | fetchmS a b n | reloadU a n | reloadS a n | flushU a n | flushS a n | reloadIU a n
  | reloadIS a n =>
    have hn : n < 64 := of_decide_eq_true h
    simp [encode, decode, decodeGroup9, needZero, userOrSupervisor, hn]
  | ldmU a b c n | ldmS a b c n =>
    have hn : n < 64 := of_decide_eq_true h
    simp [encode, decode, decodeGroup9, userOrSupervisor, hn]
  | cpyFromIe a | cpyToIe a | cpyFromXct a | cpyToXct a | cpyFromSwiarg0 a | cpyToSwiarg0 a | cpyFromSwiarg1 a
  | cpyToSwiarg1 a | cpyFromSwiarg2 a | cpyToSwiarg2 a | cpyFromSwiarg3 a | cpyToSwiarg3 a =>
    simp [encode, decode, decodeGroup10, needZero]
  | swi a b c d =>
    simp [encode, decode, decodeGroup10]
  | inu8S a b c | inu8V a b c | ins8S a b c | ins8V a b c | inu16S a b c | inu16V a b c | ins16S a b c
  | ins16V a b c | inu32S a b c | inu32V a b c | ins32S a b c | ins32V a b c | inu64S a b c | inu64V a b c
  | ins64S a b c | ins64V a b c | outu8S a b c | outu8V a b c | outs8S a b c | outs8V a b c | outu16S a b c
  | outu16V a b c | outs16S a b c | outs16V a b c | outu32S a b c | outu32V a b c | outs32S a b c
  | outs32V a b c | outu64S a b c | outu64V a b c | outs64S a b c | outs64V a b c =>
    simp [encode, decode, decodeGroup11, needZero, scalarOrVector]

/-- Reading back the four bytes of a word gives the word, in either byte order (R60, R90). -/
theorem decodeBytes_wordBytes (order : ByteOrder) (w : Word) : decodeBytes order (wordBytes order w) = decode w := by
  have hlen : (wordBytes order w).length = 4 := Machine.natToBytes_length order 4 w.toNat
  have hval : Machine.bytesToNat order (wordBytes order w) = w.toNat := by
    rw [wordBytes, Machine.bytesToNat_natToBytes]
    exact Nat.mod_eq_of_lt w.isLt
  obtain ⟨b0, b1, b2, b3, hbs⟩ := List.length_eq_four.mp hlen
  rw [hbs] at hval
  rw [hbs, decodeBytes, hval, BitVec.ofNat_toNat, BitVec.setWidth_eq]

/-- Settles O1: the decoder takes the row's branch, and the bytes of a word in either order denote the word. -/
theorem decodeOfEncode : Obligations.DecodeOfEncode := fun i h =>
  ⟨decode_encode h, fun order => (decodeBytes_wordBytes order (encode i)).trans (decode_encode h)⟩

/-! ### The word from its fields

The encoding lines read the other way: a word with the fixed bits of a line is the line filled with its fields. -/

section
variable {w : Word} {g : Nat}

theorem pack_fields {low : Nat} (hg : field w 31 28 = g) (hl : field w 15 0 = low) :
    pack g (fieldA w) (fieldB w) low = w := by
  have hw := w.isLt
  subst hg hl
  apply BitVec.eq_of_toNat_eq
  simp only [pack, field, fieldA, fieldB, regField, BitVec.toNat_ofNat]
  omega

theorem fmtABC_fields {low : Nat} (hg : field w 31 28 = g) (hl : field w 9 0 = low) :
    fmtABC g (fieldA w) (fieldB w) (fieldC w) low = w := by
  refine pack_fields hg ?_
  simp only [field, fieldC, regField] at hl ⊢
  omega

theorem fmtABCD_fields {o : Nat} (hg : field w 31 28 = g) (ho : field w 3 0 = o) :
    fmtABCD g (fieldA w) (fieldB w) (fieldC w) (fieldD w) o = w := by
  refine fmtABC_fields hg ?_
  simp only [field, fieldD, regField] at ho ⊢
  omega

theorem ofInt_simm12 (w : Word) : (BitVec.ofInt 12 (simm12 w)).toNat = field w 15 4 := by
  rw [simm12, BitVec.ofInt_toInt, BitVec.toNat_ofNat, field, Nat.mod_mod]

theorem fmtImm_fields {o : Nat} (hg : field w 31 28 = g) (ho : field w 3 0 = o) :
    fmtImm g (fieldA w) (fieldB w) (simm12 w) o = w := by
  refine pack_fields hg ?_
  rw [ofInt_simm12]
  simp only [field] at ho ⊢
  omega

theorem ofInt_isimm11 (w : Word) : (BitVec.ofInt 11 (isimm11 w)).toNat = field w 15 5 := by
  rw [isimm11, BitVec.ofInt_toInt, BitVec.toNat_ofNat, field, Nat.mod_mod]

theorem fmtFetchReg_fields (hg : field w 31 28 = 7) (ho : field w 0 0 = 0) (hz : field w 9 5 = 0) :
    fmtFetchReg (fieldA w) (fieldB w) (fieldC w) (field w 4 1) = w := by
  refine fmtABC_fields hg ?_
  simp only [field] at ho hz ⊢
  omega

theorem fmtFetchImm_fields (hg : field w 31 28 = 7) (ho : field w 0 0 = 1) :
    fmtFetchImm (fieldA w) (fieldB w) (isimm11 w) (field w 4 1) = w := by
  refine pack_fields hg ?_
  rw [ofInt_isimm11]
  simp only [field] at ho ⊢
  omega

theorem fmtJump_fields {i j vo : Nat} (hg : field w 31 28 = 8) (hz : field w 15 15 = 0) (hi : field w 14 10 = i)
    (hj : field w 9 5 = j) (hv : field w 4 0 = vo) : fmtJump (fieldA w) (fieldB w) i j vo = w := by
  refine pack_fields hg ?_
  simp only [field] at hz hi hj hv ⊢
  omega

theorem fmtLar_fields {so : Nat} (hg : field w 31 28 = 9) (hs : field w 3 0 = so) :
    fmtLar (fieldA w) (fieldB w) (fieldC w) (field w 9 4) so = w := by
  refine fmtABC_fields hg ?_
  simp only [field] at hs ⊢
  omega

theorem fieldB_eq_zero (h : field w 21 16 = 0) : fieldB w = 0 := Fin.ext h

theorem fieldC_eq_zero (h : field w 15 10 = 0) : fieldC w = 0 := Fin.ext h

theorem fieldD_eq_zero (h : field w 9 4 = 0) : fieldD w = 0 := Fin.ext h

theorem field_lt (w : Word) (hi lo : Nat) : field w hi lo < 2 ^ (hi + 1 - lo) := Nat.mod_lt _ (by positivity)

theorem fitsSimm12_simm12 (w : Word) : fitsSimm12 (simm12 w) = true := by
  have hle := BitVec.le_toInt (BitVec.ofNat 12 (field w 15 4))
  have hlt := BitVec.toInt_lt (x := BitVec.ofNat 12 (field w 15 4))
  exact Bool.and_eq_true_iff.2 ⟨decide_eq_true hle, decide_eq_true (Int.le_of_lt_add_one hlt)⟩

theorem fitsIsimm11_isimm11 (w : Word) : fitsIsimm11 (isimm11 w) = true := by
  have hle := BitVec.le_toInt (BitVec.ofNat 11 (field w 15 5))
  have hlt := BitVec.toInt_lt (x := BitVec.ofNat 11 (field w 15 5))
  exact Bool.and_eq_true_iff.2 ⟨decide_eq_true hle, decide_eq_true (Int.le_of_lt_add_one hlt)⟩

end

/-! ### What the decoder accepts -/

/-- Whatever the answer `r` accepts is a well-formed instruction whose word is `w`. -/
def AcceptsOnly (w : Word) (r : Decoded) : Prop := ∀ i, r = .ok i → i.wellFormed = true ∧ encode i = w

namespace AcceptsOnly

section
variable {w : Word} {x y : Instr} {rest : Decoded} {why : Rejection} {hi lo p : Nat}

theorem undefined : AcceptsOnly w .undefined := fun _ h => nomatch h

theorem ok (hw : x.wellFormed = true) (he : encode x = w) : AcceptsOnly w (.ok x) := by
  rintro i ⟨⟩
  exact ⟨hw, he⟩

theorem of_needZero (h : field w hi lo = 0 → AcceptsOnly w rest) : AcceptsOnly w (needZero w hi lo why rest) := by
  unfold needZero
  split
  · exact h ‹_›
  · exact fun _ h => nomatch h

theorem bit_eq_one (h : ¬field w p p = 0) : field w p p = 1 := by
  have hlt := field_lt w p p
  rw [Nat.add_sub_cancel_left] at hlt
  omega

theorem of_scalarOrVector (hx : field w p p = 0 → AcceptsOnly w (.ok x))
    (hy : field w p p = 1 → AcceptsOnly w (.ok y)) :
    AcceptsOnly w (scalarOrVector w p x y) := by
  unfold scalarOrVector
  split
  · exact hx ‹_›
  · exact hy (bit_eq_one ‹_›)

theorem of_userOrSupervisor (hx : field w 3 3 = 0 → AcceptsOnly w (.ok x))
    (hy : field w 3 3 = 1 → AcceptsOnly w (.ok y)) :
    AcceptsOnly w (userOrSupervisor w x y) :=
  of_scalarOrVector hx hy

end

/-! One lemma per kind of row: the literal zeros, the `v` or `S` bit and the opcode make up the line's fixed bits. -/

section
variable {w : Word} {x y : Instr} {g o : Nat}

theorem group0Row (hg : field w 31 28 = 0) (ho : field w 3 0 = o) (hx : x.wellFormed = true) (hy : y.wellFormed = true)
    (ex : encode x = fmtABC 0 (fieldA w) (fieldB w) (fieldC w) o)
    (ey : encode y = fmtABC 0 (fieldA w) (fieldB w) (fieldC w) (16 + o)) :
    AcceptsOnly w (needZero w 9 5 .literalZero (scalarOrVector w 4 x y)) := by
  refine of_needZero fun hz => of_scalarOrVector (fun hv => ok hx (ex.trans (fmtABC_fields hg ?_)))
    fun hv => ok hy (ey.trans (fmtABC_fields hg ?_))
  all_goals
    simp only [field] at ho hz hv ⊢
    omega

theorem group1Row (hg : field w 31 28 = 1) (ho : field w 3 0 = o) (hx : x.wellFormed = true)
    (ex : encode x = fmtABC 1 (fieldA w) (fieldB w) 0 o) :
    AcceptsOnly w (needZero w 9 4 .literalZero (needZero w 15 10 .unusedField (.ok x))) := by
  refine of_needZero fun hz => of_needZero fun hc => ok hx ?_
  rw [ex, ← fieldC_eq_zero hc]
  refine fmtABC_fields hg ?_
  simp only [field] at ho hz ⊢
  omega

theorem immRow (hg : field w 31 28 = g) (ho : field w 3 0 = o) (hx : x.wellFormed = fitsSimm12 (simm12 w))
    (ex : encode x = fmtImm g (fieldA w) (fieldB w) (simm12 w) o) : AcceptsOnly w (.ok x) :=
  ok (hx.trans (fitsSimm12_simm12 w)) (ex.trans (fmtImm_fields hg ho))

theorem group4Row (hg : field w 31 28 = 4) (ho : field w 3 0 = o) (hx : x.wellFormed = true)
    (ex : encode x = fmtABC 4 (fieldA w) (fieldB w) (fieldC w) o) :
    AcceptsOnly w (needZero w 9 4 .literalZero (.ok x)) := by
  refine of_needZero fun hz => ok hx (ex.trans (fmtABC_fields hg ?_))
  simp only [field] at ho hz ⊢
  omega

theorem group6Row (hg : field w 31 28 = 6) (ho : field w 3 0 = o) (hx : x.wellFormed = true)
    (ex : encode x = fmtABC 6 (fieldA w) (fieldB w) 0 o) :
    AcceptsOnly w (needZero w 15 4 .literalZero (.ok x)) := by
  refine of_needZero fun hz => ok hx ?_
  have hc : field w 15 10 = 0 := by
    simp only [field] at hz ⊢
    omega
  rw [ex, ← fieldC_eq_zero hc]
  refine fmtABC_fields hg ?_
  simp only [field] at ho hz ⊢
  omega

/-- A row of Group 8 after its literal zero and its unused fields, whose indices are `i` and `j`. -/
theorem jumpRow {i j : Nat} {b : Fin 64} (hg : field w 31 28 = 8) (ho : field w 3 0 = o) (hz : field w 15 15 = 0)
    (hb : fieldB w = b) (hi : field w 14 10 = i) (hj : field w 9 5 = j)
    (hx : x.wellFormed = true) (hy : y.wellFormed = true)
    (ex : encode x = fmtJump (fieldA w) b i j o) (ey : encode y = fmtJump (fieldA w) b i j (16 + o)) :
    AcceptsOnly w (scalarOrVector w 4 x y) := by
  subst hb
  refine of_scalarOrVector (fun hv => ok hx (ex.trans (fmtJump_fields hg hz hi hj ?_)))
    fun hv => ok hy (ey.trans (fmtJump_fields hg hz hi hj ?_))
  all_goals
    simp only [field] at ho hv ⊢
    omega

/-- A row of Group 9 after its unused fields. -/
theorem larRow {b c : Fin 64} (hg : field w 31 28 = 9) (ho : field w 2 0 = o) (hb : fieldB w = b) (hc : fieldC w = c)
    (hx : x.wellFormed = fitsImm6 (field w 9 4)) (hy : y.wellFormed = fitsImm6 (field w 9 4))
    (ex : encode x = fmtLar (fieldA w) b c (field w 9 4) o)
    (ey : encode y = fmtLar (fieldA w) b c (field w 9 4) (8 + o)) :
    AcceptsOnly w (userOrSupervisor w x y) := by
  subst hb hc
  have hn : fitsImm6 (field w 9 4) = true := decide_eq_true (field_lt w 9 4)
  refine of_userOrSupervisor (fun hs => ok (hx.trans hn) (ex.trans (fmtLar_fields hg ?_)))
    fun hs => ok (hy.trans hn) (ey.trans (fmtLar_fields hg ?_))
  all_goals
    simp only [field] at ho hs ⊢
    omega

theorem cpyRow (hg : field w 31 28 = 10) (ho : field w 3 0 = o) (hx : x.wellFormed = true)
    (ex : encode x = fmtABCD 10 (fieldA w) 0 0 0 o) :
    AcceptsOnly w (needZero w 21 16 .unusedField (needZero w 15 4 .unusedField (.ok x))) := by
  refine of_needZero fun hb => of_needZero fun hz => ok hx ?_
  have hc : field w 15 10 = 0 := by
    simp only [field] at hz ⊢
    omega
  have hd : field w 9 4 = 0 := by
    simp only [field] at hz ⊢
    omega
  have hw := fmtABCD_fields hg ho
  rw [fieldB_eq_zero hb, fieldC_eq_zero hc, fieldD_eq_zero hd] at hw
  exact ex.trans hw

theorem ioRow (hg : field w 31 28 = 11) (ho : field w 4 0 = o) (hx : x.wellFormed = true) (hy : y.wellFormed = true)
    (ex : encode x = fmtABC 11 (fieldA w) (fieldB w) (fieldC w) o)
    (ey : encode y = fmtABC 11 (fieldA w) (fieldB w) (fieldC w) (32 + o)) :
    AcceptsOnly w (needZero w 9 6 .literalZero (scalarOrVector w 5 x y)) := by
  refine of_needZero fun hz => of_scalarOrVector (fun hv => ok hx (ex.trans (fmtABC_fields hg ?_)))
    fun hv => ok hy (ey.trans (fmtABC_fields hg ?_))
  all_goals
    simp only [field] at ho hz hv ⊢
    omega

end

/-! The groups, row by row. -/

section
variable {w : Word}

theorem group0 (hg : field w 31 28 = 0) :
    AcceptsOnly w (decodeGroup0 w (fieldA w) (fieldB w) (fieldC w) (fieldD w)) := by
  unfold decodeGroup0
  split
  case h_15 ho | h_16 ho => exact ok rfl (fmtABCD_fields hg ho)
  case h_17 => exact undefined
  all_goals exact group0Row hg ‹_› rfl rfl rfl rfl

theorem group1 (hg : field w 31 28 = 1) : AcceptsOnly w (decodeGroup1 w (fieldA w) (fieldB w)) := by
  unfold decodeGroup1
  split
  case h_8 => exact undefined
  all_goals exact group1Row hg ‹_› rfl rfl

theorem group2 (hg : field w 31 28 = 2) : AcceptsOnly w (decodeGroup2 w (fieldA w) (fieldB w)) := by
  unfold decodeGroup2
  split
  case h_9 => exact undefined
  all_goals exact immRow hg ‹_› rfl rfl

theorem group3 (hg : field w 31 28 = 3) : AcceptsOnly w (decodeGroup3 w (fieldA w) (fieldB w)) := by
  unfold decodeGroup3
  split
  case h_9 => exact undefined
  all_goals exact immRow hg ‹_› rfl rfl

theorem group4 (hg : field w 31 28 = 4) : AcceptsOnly w (decodeGroup4 w (fieldA w) (fieldB w) (fieldC w)) := by
  unfold decodeGroup4
  split
  case h_9 => exact undefined
  all_goals exact group4Row hg ‹_› rfl rfl

theorem group5 (hg : field w 31 28 = 5) : AcceptsOnly w (decodeGroup5 w (fieldA w) (fieldB w)) := by
  unfold decodeGroup5
  split
  case h_9 => exact undefined
  all_goals exact immRow hg ‹_› rfl rfl

theorem group6 (hg : field w 31 28 = 6) : AcceptsOnly w (decodeGroup6 w (fieldA w) (fieldB w)) := by
  unfold decodeGroup6
  split
  case h_9 => exact undefined
  all_goals exact group6Row hg ‹_› rfl rfl

theorem group7 (hg : field w 31 28 = 7) : AcceptsOnly w (decodeGroup7 w (fieldA w) (fieldB w) (fieldC w)) := by
  have hj : fitsJimm4 (field w 4 1) = true := decide_eq_true (field_lt w 4 1)
  unfold decodeGroup7
  split
  case h_1 ho => exact of_needZero fun hz => ok hj (fmtFetchReg_fields hg ho hz)
  case h_2 ho =>
    exact ok (Bool.and_eq_true_iff.2 ⟨fitsIsimm11_isimm11 w, hj⟩) (fmtFetchImm_fields hg (bit_eq_one ho))

theorem group8 (hg : field w 31 28 = 8) : AcceptsOnly w (decodeGroup8 w (fieldA w) (fieldB w)) := by
  have hi : fitsIndex5 (field w 14 10) = true := decide_eq_true (field_lt w 14 10)
  have hj : fitsIndex5 (field w 9 5) = true := decide_eq_true (field_lt w 9 5)
  unfold decodeGroup8
  split
  case h_1 ho =>
    have hij := Bool.and_eq_true_iff.2 ⟨hi, hj⟩
    exact of_needZero fun hz => jumpRow hg ho hz rfl rfl rfl hij hij rfl rfl
  case h_2 ho | h_3 ho => exact of_needZero fun hz => of_needZero fun hu => jumpRow hg ho hz rfl rfl hu hi hi rfl rfl
  case h_4 ho | h_5 ho =>
    refine of_needZero fun hz => of_needZero fun hb => of_needZero fun hu => ?_
    have hu1 : field w 14 10 = 0 := by
      simp only [field] at hu ⊢
      omega
    have hu2 : field w 9 5 = 0 := by
      simp only [field] at hu ⊢
      omega
    exact jumpRow hg ho hz (fieldB_eq_zero hb) hu1 hu2 rfl rfl rfl rfl
  case h_6 => exact undefined

theorem group9 (hg : field w 31 28 = 9) : AcceptsOnly w (decodeGroup9 w (fieldA w) (fieldB w) (fieldC w)) := by
  unfold decodeGroup9
  split
  case h_1 ho | h_2 ho | h_3 ho | h_5 ho =>
    exact of_needZero fun hc => larRow hg ho rfl (fieldC_eq_zero hc) rfl rfl rfl rfl
  case h_4 ho => exact larRow hg ho rfl rfl rfl rfl rfl rfl
  case h_6 ho | h_7 ho =>
    exact of_needZero fun hb => of_needZero fun hc => larRow hg ho (fieldB_eq_zero hb) (fieldC_eq_zero hc) rfl rfl rfl rfl
  case h_8 h0 h1 h2 h3 h4 h5 h6 =>
    have hlt : field w 2 0 < 8 := field_lt w 2 0
    simp only [imp_false] at h0 h1 h2 h3 h4 h5 h6
    have ho : field w 2 0 = 7 := by omega
    exact of_needZero fun hb => of_needZero fun hc => larRow hg ho (fieldB_eq_zero hb) (fieldC_eq_zero hc) rfl rfl rfl rfl

theorem group10 (hg : field w 31 28 = 10) :
    AcceptsOnly w (decodeGroup10 w (fieldA w) (fieldB w) (fieldC w) (fieldD w)) := by
  unfold decodeGroup10
  split
  case h_13 ho => exact ok rfl (fmtABCD_fields hg ho)
  case h_14 => exact undefined
  all_goals exact cpyRow hg ‹_› rfl rfl

theorem group11 (hg : field w 31 28 = 11) : AcceptsOnly w (decodeGroup11 w (fieldA w) (fieldB w) (fieldC w)) := by
  unfold decodeGroup11
  split
  case h_17 => exact undefined
  all_goals exact ioRow hg ‹_› rfl rfl rfl rfl

end

theorem of_decode (w : Word) : AcceptsOnly w (decode w) := by
  unfold decode
  split
  · exact group0 ‹_›
  · exact group1 ‹_›
  · exact group2 ‹_›
  · exact group3 ‹_›
  · exact group4 ‹_›
  · exact group5 ‹_›
  · exact group6 ‹_›
  · exact group7 ‹_›
  · exact group8 ‹_›
  · exact group9 ‹_›
  · exact group10 ‹_›
  · exact group11 ‹_›
  · exact undefined

end AcceptsOnly

/-- Settles O2: row by row, the fixed bits and the fields make up the word. -/
theorem encodeOfDecode : Obligations.EncodeOfDecode := AcceptsOnly.of_decode

/-- The decoder accepts exactly the words of well-formed instructions. -/
theorem decode_eq_ok_iff {w : Word} {i : Instr} : decode w = .ok i ↔ i.wellFormed = true ∧ encode i = w :=
  ⟨AcceptsOnly.of_decode w i, fun ⟨h, e⟩ => e ▸ decode_encode h⟩

/-! ### Undefined words (R104) -/

section
variable {w : Word} {x y : Instr} {rest : Decoded} {why : Rejection} {hi lo p : Nat} {a b c d : Fin 64}

@[simp] theorem needZero_eq_undefined :
    needZero w hi lo why rest = .undefined ↔ field w hi lo = 0 ∧ rest = .undefined := by
  unfold needZero
  split <;> simp [*]

@[simp] theorem scalarOrVector_ne_undefined : scalarOrVector w p x y ≠ .undefined := by
  unfold scalarOrVector
  split <;> exact Decoded.noConfusion

@[simp] theorem userOrSupervisor_ne_undefined : userOrSupervisor w x y ≠ .undefined :=
  scalarOrVector_ne_undefined (p := 3)

theorem decodeGroup0_ne_undefined : decodeGroup0 w a b c d ≠ .undefined := by
  have hlt : field w 3 0 < 16 := field_lt w 3 0
  unfold decodeGroup0
  split
  case h_17 =>
    simp only [imp_false] at *
    omega
  all_goals simp

theorem decodeGroup1_eq_undefined : decodeGroup1 w a b = .undefined ↔ 7 ≤ field w 3 0 := by
  unfold decodeGroup1
  split
  case h_8 =>
    simp only [imp_false, true_iff] at *
    omega
  all_goals simp [*]

theorem decodeGroup2_eq_undefined : decodeGroup2 w a b = .undefined ↔ 8 ≤ field w 3 0 := by
  unfold decodeGroup2
  split
  case h_9 =>
    simp only [imp_false, true_iff] at *
    omega
  all_goals simp [*]

theorem decodeGroup3_eq_undefined : decodeGroup3 w a b = .undefined ↔ 8 ≤ field w 3 0 := by
  unfold decodeGroup3
  split
  case h_9 =>
    simp only [imp_false, true_iff] at *
    omega
  all_goals simp [*]

theorem decodeGroup4_eq_undefined : decodeGroup4 w a b c = .undefined ↔ 8 ≤ field w 3 0 := by
  unfold decodeGroup4
  split
  case h_9 =>
    simp only [imp_false, true_iff] at *
    omega
  all_goals simp [*]

theorem decodeGroup5_eq_undefined : decodeGroup5 w a b = .undefined ↔ 8 ≤ field w 3 0 := by
  unfold decodeGroup5
  split
  case h_9 =>
    simp only [imp_false, true_iff] at *
    omega
  all_goals simp [*]

theorem decodeGroup6_eq_undefined : decodeGroup6 w a b = .undefined ↔ 8 ≤ field w 3 0 := by
  unfold decodeGroup6
  split
  case h_9 =>
    simp only [imp_false, true_iff] at *
    omega
  all_goals simp [*]

theorem decodeGroup7_ne_undefined : decodeGroup7 w a b c ≠ .undefined := by
  unfold decodeGroup7
  split <;> simp

theorem decodeGroup8_eq_undefined : decodeGroup8 w a b = .undefined ↔ 5 ≤ field w 3 0 := by
  unfold decodeGroup8
  split
  case h_6 =>
    simp only [imp_false, true_iff] at *
    omega
  all_goals simp [*]

theorem decodeGroup9_ne_undefined : decodeGroup9 w a b c ≠ .undefined := by
  unfold decodeGroup9
  split <;> simp

theorem decodeGroup10_eq_undefined : decodeGroup10 w a b c d = .undefined ↔ 13 ≤ field w 3 0 := by
  unfold decodeGroup10
  split
  case h_14 =>
    simp only [imp_false, true_iff] at *
    omega
  all_goals simp [*]

theorem decodeGroup11_eq_undefined : decodeGroup11 w a b c = .undefined ↔
    (8 ≤ field w 4 0 ∧ field w 4 0 ≤ 15) ∨ 24 ≤ field w 4 0 := by
  unfold decodeGroup11
  split
  case h_17 =>
    simp only [imp_false, true_iff] at *
    omega
  all_goals simp [*]

end

/-- Settles O3: the groups' own lists of undefined opcodes, put together. -/
theorem undefinedWordsAreTheReservedOnes : Obligations.UndefinedWordsAreTheReservedOnes := by
  intro w
  unfold decode
  split
  case h_1 => exact iff_of_false decodeGroup0_ne_undefined (by omega)
  case h_2 => rw [decodeGroup1_eq_undefined]; omega
  case h_3 => rw [decodeGroup2_eq_undefined]; omega
  case h_4 => rw [decodeGroup3_eq_undefined]; omega
  case h_5 => rw [decodeGroup4_eq_undefined]; omega
  case h_6 => rw [decodeGroup5_eq_undefined]; omega
  case h_7 => rw [decodeGroup6_eq_undefined]; omega
  case h_8 => exact iff_of_false decodeGroup7_ne_undefined (by omega)
  case h_9 => rw [decodeGroup8_eq_undefined]; omega
  case h_10 => exact iff_of_false decodeGroup9_ne_undefined (by omega)
  case h_11 => rw [decodeGroup10_eq_undefined]; omega
  case h_12 => rw [decodeGroup11_eq_undefined]; omega
  case h_13 =>
    simp only [imp_false, true_iff] at *
    omega

/-! ### Printed words and immediates -/

theorem decode_of_encode {w : Word} {i : Instr} (h : i.wellFormed = true) (e : encode i = w) : decode w = .ok i :=
  decode_eq_ok_iff.2 ⟨h, e⟩

/-- Settles O4: the encoder makes each printed word. -/
theorem printedWordsDecode : Obligations.PrintedWordsDecode := by
  and_intros
  all_goals exact decode_of_encode rfl rfl

theorem extractLsb'_toNat_eq_field (w : Word) (lo len : Nat) (h : 0 < len) :
    (w.extractLsb' lo len).toNat = field w (lo + len - 1) lo := by
  rw [BitVec.extractLsb'_toNat, Nat.shiftRight_eq_div_pow, field]
  congr 2
  omega

theorem isimm11_eq (w : Word) : isimm11 w = (w.extractLsb' 5 11).toInt := by
  rw [isimm11, ← extractLsb'_toNat_eq_field w 5 11 (by decide), BitVec.ofNat_toNat, BitVec.setWidth_eq]

theorem append_zeros_signExtend (x : BitVec 11) : (x ++ 0#2).signExtend 32 = BitVec.ofInt 32 (4 * x.toInt) := by
  rw [BitVec.signExtend, BitVec.toInt_append_zero]
  rfl

theorem eq_isimm11_of_decode {w : Word} {a b : Fin 64} {imm : Int} {j : Nat}
    (h : decode w = .ok (.fetchImm a b imm j)) :
    imm = isimm11 w := by
  obtain ⟨hwf, he⟩ := decode_eq_ok_iff.1 h
  obtain ⟨hi, hj⟩ : fitsIsimm11 imm = true ∧ j < 16 := by simpa [Instr.wellFormed, fitsJimm4] using hwf
  rw [← he]
  exact (isimm11_fmtFetchImm a b imm hi hj).symm

/-- Settles O5: the decoded displacement is the field, whose range bounds it. -/
theorem fetchDisplacementIsSignExtended : Obligations.FetchDisplacementIsSignExtended := by
  intro w a b imm j h
  have himm := eq_isimm11_of_decode h
  obtain ⟨hmin, hmax⟩ : -1024 ≤ imm ∧ imm ≤ 1023 := by
    simpa [fitsIsimm11, himm] using fitsIsimm11_isimm11 w
  refine ⟨?_, by omega, by omega⟩
  rw [append_zeros_signExtend, ← isimm11_eq, himm]

theorem four_mul_field (w : Word) : 4 * field w 14 10 = (w.extractLsb' 10 5 ++ 0#2).toNat := by
  rw [BitVec.toNat_append, extractLsb'_toNat_eq_field w 10 5 (by decide)]
  simp [Nat.shiftLeft_eq, Nat.mul_comm]

/-- The word of a jump holds the index in bits [14:10] (R99). -/
theorem four_mul_index {w : Word} {a b : Fin 64} {i j vo : Nat} (e : fmtJump a b i j vo = w)
    (hi : i < 32) (hj : j < 32) (hv : vo < 32) : 4 * i = (w.extractLsb' 10 5 ++ 0#2).toNat ∧ 4 * i ≤ 124 := by
  have hf : field w 14 10 = i := by simp [← e, hi, hj, hv]
  rw [← four_mul_field, hf]
  exact ⟨rfl, by omega⟩

/-- Settles O56: the accepted word is the encoder's, so it holds the index. -/
theorem jumpIndexIsShiftedOnce : Obligations.JumpIndexIsShiftedOnce := by
  intro w a b i j x hx h
  obtain ⟨hwf, he⟩ := decode_eq_ok_iff.1 h
  have hsel : (fitsIndex5 i && fitsIndex5 j) = true → i < 32 ∧ j < 32 := by simp [fitsIndex5]
  simp only [List.mem_cons, List.not_mem_nil, or_false] at hx
  rcases hx with rfl | rfl | rfl | rfl | rfl | rfl
  · exact four_mul_index he (hsel hwf).1 (hsel hwf).2 (by decide)
  · exact four_mul_index he (hsel hwf).1 (hsel hwf).2 (by decide)
  · exact four_mul_index he (of_decide_eq_true hwf) (by decide) (by decide)
  · exact four_mul_index he (of_decide_eq_true hwf) (by decide) (by decide)
  · exact four_mul_index he (of_decide_eq_true hwf) (by decide) (by decide)
  · exact four_mul_index he (of_decide_eq_true hwf) (by decide) (by decide)

end Sys2Proof
end

section
/-! The statements about arithmetic, logic, shifts, rotations and division (O24 to O28, O30, O31), about their guards (O32,
O33) and about the sum and the product of a line (O34). -/

namespace Sys2Proof.Machine

/-! ### Operations at a type -/

theorem patternOf_scalarVal (s : State) (T : Ty) (n : DReg) : patternOf T (s.scalarVal T n) = patternOf T (s.scalar n).val :=
  patternOf_wrapTo T _

theorem patternOf_laneVal (s : State) (T : Ty) (n : DReg) (k : Nat) :
    patternOf T (s.laneVal T n k) = patternOf T (s.lane n k).val :=
  patternOf_wrapTo T _

theorem computesAt_sub (T : Ty) : ComputesAt T TVal.sub fun x y => x - y := computes_sub T

theorem computesAt_slt (T : Ty) : ComputesAt T TVal.slt fun x y => if x < y then 1 else 0 := computes_slt T

theorem computesAt_mul (T : Ty) : ComputesAt T TVal.mul fun x y => x * y := computes_mul T

theorem computesAt_and (T : Ty) : ComputesAt T TVal.and fun x y => (patternOf T x &&& patternOf T y : Nat) := computes_and T

theorem computesAt_or (T : Ty) : ComputesAt T TVal.or fun x y => (patternOf T x ||| patternOf T y : Nat) := computes_or T

theorem computesAt_xor (T : Ty) : ComputesAt T TVal.xor fun x y => (patternOf T x ^^^ patternOf T y : Nat) := computes_xor T

theorem computesAt_shr (T : Ty) : ComputesAt T TVal.shr fun x y => x / 2 ^ patternOf T y := computes_shr T

theorem computesAt_rol (T : Ty) : ComputesAt T TVal.rol fun x y =>
    (patternOf T x * 2 ^ (patternOf T y % T.width) + patternOf T x / 2 ^ (T.width - patternOf T y % T.width) : Nat) :=
  computes_rol T

theorem computesAt_ror (T : Ty) : ComputesAt T TVal.ror fun x y =>
    (patternOf T x / 2 ^ (patternOf T y % T.width) + patternOf T x * 2 ^ (T.width - patternOf T y % T.width) : Nat) :=
  computes_ror T

/-! ### Results at the type of dA -/

/-- A vector form of Group 0 on two registers with elements of dA's size (R120). -/
theorem ComputesAt.givesVector_sameSize {s : State} {i : Instr} {op : TVal → TVal → TVal} {g : Int → Int → Int}
    {a b c : DReg} (hg : ComputesAt (s.typeOf a) op g) (hs : s.SameSize a [b, c])
    (he : exec i s = sameSize ([b, c].map s.typeOf) (s.typeOf a) (vectorOp op a (s.lane b) c s)) :
    GivesVector s i a fun k => g (s.laneVal (s.typeOf a) b k) (s.laneVal (s.typeOf a) c k) :=
  hg.givesVector (he.trans (hs.sameSize _))

/-- Settles O24: each form is a `scalarOp` or a `vectorOp` of its operation. -/
theorem addSubSltResult : Obligations.AddSubSltResult := by
  intro s a b c
  simp only [List.forall_mem_cons, List.not_mem_nil, false_imp_iff, implies_true, and_true]
  refine ⟨⟨?_, ?_, ?_⟩, fun hs => ⟨?_, ?_, ?_⟩⟩
  · exact (computesAt_add _).givesScalar rfl
  · exact (computesAt_sub _).givesScalar rfl
  · exact (computesAt_slt _).givesScalar rfl
  · exact (computesAt_add _).givesVector_sameSize hs rfl
  · exact (computesAt_sub _).givesVector_sameSize hs rfl
  · exact (computesAt_slt _).givesVector_sameSize hs rfl

/-- Settles O25: the pattern of a source is the pattern of the source cast to dA's type. -/
theorem andOrXorResult : Obligations.AndOrXorResult := by
  intro s a b c
  simp only [List.forall_mem_cons, List.not_mem_nil, false_imp_iff, implies_true, and_true, ← patternOf_scalarVal,
    ← patternOf_laneVal]
  refine ⟨⟨?_, ?_, ?_⟩, fun hs => ⟨?_, ?_, ?_⟩⟩
  · exact (computesAt_and _).givesScalar rfl
  · exact (computesAt_or _).givesScalar rfl
  · exact (computesAt_xor _).givesScalar rfl
  · exact (computesAt_and _).givesVector_sameSize hs rfl
  · exact (computesAt_or _).givesVector_sameSize hs rfl
  · exact (computesAt_xor _).givesVector_sameSize hs rfl

/-- Settles O26: neither guard stops the product. -/
theorem mulResult : Obligations.MulResult := by
  intro s a b c h64
  refine ⟨?_, fun hs => ?_⟩
  · exact (computesAt_mul _).givesScalar (h64.unless64 _)
  · exact (computesAt_mul _).givesVector_sameSize hs (h64.unless64 _)

/-- Settles O27: the model's cut at a count of the width or more is the mathematical shift. -/
theorem shiftResult : Obligations.ShiftResult := by
  intro s a b c h64
  simp only [List.forall_mem_cons, List.not_mem_nil, false_imp_iff, implies_true, and_true, ← patternOf_scalarVal,
    ← patternOf_laneVal]
  refine ⟨⟨?_, ?_⟩, fun hs => ⟨?_, ?_⟩⟩
  · exact (computesAt_shl _).givesScalar (h64.unless64 _)
  · exact (computesAt_shr _).givesScalar (h64.unless64 _)
  · exact (computesAt_shl _).givesVector_sameSize hs (h64.unless64 _)
  · exact (computesAt_shr _).givesVector_sameSize hs (h64.unless64 _)

/-- Settles O28: the two parts of a rotated pattern do not overlap, so they add up. -/
theorem rotateResult : Obligations.RotateResult := by
  intro s a b c h64
  simp only [List.forall_mem_cons, List.not_mem_nil, false_imp_iff, implies_true, and_true, ← patternOf_scalarVal,
    ← patternOf_laneVal]
  refine ⟨⟨?_, ?_⟩, fun hs => ⟨?_, ?_⟩⟩
  · exact (computesAt_rol _).givesScalar (h64.unless64 _)
  · exact (computesAt_ror _).givesScalar (h64.unless64 _)
  · exact (computesAt_rol _).givesVector_sameSize hs (h64.unless64 _)
  · exact (computesAt_ror _).givesVector_sameSize hs (h64.unless64 _)

/-! ### Division -/

theorem computesAt_quot (T : Ty) : ComputesAt T TVal.quot Int.tdiv := computes_quot T

/-- The remainder that goes with the rounded quotient is `tmod` (R136, D7). -/
theorem computesAt_rem (T : Ty) : ComputesAt T TVal.rem Int.tmod := fun v w => by
  rw [Int.tmod_def, mul_comm]
  exact computes_rem T v w

/-- What a computed value denotes. -/
theorem Computes.val {v : TVal} {T : Ty} {z : Int} (h : Computes v T z) : v.val = wrapTo T z := by
  obtain ⟨hty, hbits⟩ := h
  rw [val_of_bits, hty, hbits, patternOf_cast, wrapTo_emod]

/-- The remainder lies between zero and the dividend. -/
theorem tmod_between (x y : Int) : (0 ≤ x.tmod y ∧ x.tmod y ≤ x) ∨ (x ≤ x.tmod y ∧ x.tmod y ≤ 0) := by
  have habs : (x.tmod y).natAbs ≤ x.natAbs := by
    rw [Int.natAbs_tmod]
    exact Nat.mod_le _ _
  have hneg := Int.neg_tmod x y
  rcases le_total 0 x with hx | hx
  · have := Int.tmod_nonneg y hx
    omega
  · have := Int.tmod_nonneg y (Int.neg_nonneg.2 hx)
    omega

/-- What lies between zero and an integer of a type is an integer of that type. -/
theorem wrapTo_of_between {T : Ty} {x z : Int}
    (h : (0 ≤ z ∧ z ≤ wrapTo T x) ∨ (wrapTo T x ≤ z ∧ z ≤ 0)) : wrapTo T z = z := by
  have hpos : 0 < 2 ^ T.width := Nat.two_pow_pos _
  unfold wrapTo at *
  split at h
  · rw [if_pos ‹_›]
    have hlow := Int.le_bmod (x := x) hpos
    have hhigh := Int.bmod_lt (x := x) hpos
    exact Int.bmod_eq_of_le (by omega) (by omega)
  · rw [if_neg ‹_›]
    have hlow := Int.emod_nonneg x (b := 2 ^ T.width) (by positivity)
    have hhigh := Int.emod_lt_of_pos x (b := 2 ^ T.width) (by positivity)
    exact Int.emod_eq_of_lt (by omega) (by omega)

/-- Casting a remainder from dA's type to dD's type casts the remainder itself, also where dD's type is the wider one
(R136). -/
theorem computes_cast_rem (T D : Ty) (v w : TVal) :
    Computes (cast D ((cast T v).rem (cast T w))) D ((wrapTo T v.val).tmod (wrapTo T w.val)) := by
  have hrem := (computesAt_rem T v w).val
  rw [wrapTo_of_between (tmod_between _ _)] at hrem
  rw [cast, hrem]
  exact computes_ofInt D _

theorem execDivS_raises {s : State} {a b c d : DReg} (h64 : s.No64 [c]) (h : s.scalarVal (s.typeOf a) c = 0) :
    execDivS a b c d s = .next (s.raise 0x1) :=
  (h64.unless64 _).trans (if_pos ((val_cast _ _).trans h))

theorem execDivS_divides {s : State} {a b c d : DReg} (h64 : s.No64 [c]) (h : s.scalarVal (s.typeOf a) c ≠ 0) :
    execDivS a b c d s = fallThrough
      ((s.writeScalar a ((cast (s.typeOf a) (s.scalar b)).quot (cast (s.typeOf a) (s.scalar c)))).writeScalar d
        (cast (s.typeOf d) ((cast (s.typeOf a) (s.scalar b)).rem (cast (s.typeOf a) (s.scalar c))))) :=
  (h64.unless64 _).trans (if_neg fun h0 => h ((val_cast _ _).symm.trans h0))

/-- Settles O30: the first write leaves dD's type, and the remainder is in the range of dA's type. -/
theorem divScalarResult : Obligations.DivScalarResult := by
  intro s a b c d h64
  refine ⟨fun h => ?_, fun h => raise_exception (execDivS_raises h64 h)⟩
  have hquot := writeScalar_written s a (computesAt_quot (s.typeOf a) (s.scalar b) (s.scalar c))
  refine ⟨_, _, _, execDivS_divides h64 h, hquot, writeScalar_written _ d ?_, advance_fallsThrough _⟩
  rw [hquot.typeOf_eq]
  exact computes_cast_rem _ _ _ _

/-- Some element of dC, cast to dA's type, is zero (R137). -/
theorem someLaneZero_iff (s : State) (T : Ty) (c : DReg) :
    someLaneZero T (fun k => cast T (s.lane c k)) = true ↔ ∃ k, k < T.lanes ∧ s.laneVal T c k = 0 := by
  simp [someLaneZero, val_cast, State.laneVal]

section
variable {s : State} {a b c d : DReg}

theorem execDivV_raises (h64 : s.No64 [c]) (hs : s.SameSize a [b, c, d])
    (h : ∃ k, k < (s.typeOf a).lanes ∧ s.laneVal (s.typeOf a) c k = 0) : execDivV a b c d s = .next (s.raise 0x1) :=
  ((h64.unless64 _).trans (hs.sameSize _)).trans (if_pos ((someLaneZero_iff s _ c).2 h))

/-- The line that `div.v` writes for the operation `op`: the quotients or the remainders (R137). -/
def divLine (op : TVal → TVal → TVal) (a b c : DReg) (s : State) : Line :=
  lineOfElems s.config.byteOrder (s.typeOf a) fun k =>
    op (cast (s.typeOf a) (s.lane b k)) (cast (s.typeOf a) (s.lane c k))

theorem execDivV_divides (h64 : s.No64 [c]) (hs : s.SameSize a [b, c, d])
    (h : ¬ ∃ k, k < (s.typeOf a).lanes ∧ s.laneVal (s.typeOf a) c k = 0) : execDivV a b c d s =
      fallThrough ((s.writeVector a (divLine TVal.quot a b c s)).writeVector d (divLine TVal.rem a b c s)) :=
  ((h64.unless64 _).trans (hs.sameSize _)).trans (if_neg fun h0 => h ((someLaneZero_iff s _ c).1 h0))

/-- Writing a line of `div.v`, in a state of the same byte order, writes `g` of the sources into every element. -/
theorem divLine_written {op : TVal → TVal → TVal} {g : Int → Int → Int} {u : State} (hu : u.config = s.config)
    (hg : ComputesAt (s.typeOf a) op g) : VectorWritten u (u.writeVector d (divLine op a b c s)) d (s.typeOf a)
      fun k => g (s.laneVal (s.typeOf a) b k) (s.laneVal (s.typeOf a) c k) := by
  rw [divLine, ← hu]
  exact writeVector_written u d _ fun k _ => hg (s.lane b k) (s.lane c k)

end

/-- Settles O31: both lines are made of the sources as they stand before the first write. -/
theorem divVectorResult : Obligations.DivVectorResult := by
  intro s a b c d h64 hs
  refine ⟨fun h => ?_, fun k hk h0 => raise_exception (execDivV_raises h64 hs ⟨k, hk, h0⟩)⟩
  have hquot := divLine_written (b := b) (c := c) (d := a) (u := s) rfl (computesAt_quot (s.typeOf a))
  refine ⟨_, _, _, execDivV_divides h64 hs fun ⟨k, hk, h0⟩ => h k hk h0, hquot, ?_, advance_fallsThrough _⟩
  exact divLine_written hquot.rest.config (computesAt_rem _)

/-! ### Guards -/

theorem unless64_exception {s : State} {i : Instr} {regs : List DReg}
    (he : ∃ rest, exec i s = unless64 (regs.map s.typeOf) s rest) (h : ∃ n ∈ regs, (s.typeOf n).is64 = true) :
    GivesException s i 0x3 := by
  obtain ⟨rest, he⟩ := he
  obtain ⟨n, hn, h64⟩ := h
  exact raise_exception (he.trans (unless64_raises ⟨_, List.mem_map_of_mem hn, h64⟩ rest))

/-- Settles O32: each of the instructions asks for the types of its rule's operands before anything else. -/
theorem sixtyFourBitTypesRaiseExceptionThree : Obligations.SixtyFourBitTypesRaiseExceptionThree := by
  intro s a b c d p hp
  refine unless64_exception ?_
  revert p
  simp only [List.forall_mem_cons, List.not_mem_nil, false_imp_iff, implies_true, and_true]
  and_intros
  all_goals exact ⟨_, rfl⟩

/-- A reduction is guarded as a vector form on dB is (R150, U7). -/
theorem reduceOp_eq_sameSize (op : TVal → TVal → TVal) (a b : DReg) (s : State) :
    reduceOp op a b s = sameSize ([b].map s.typeOf) (s.typeOf a)
      (fallThrough (s.writeScalar a (reduce op (fun k => cast (s.typeOf a) (s.lane b k)) (s.typeOf a).lanes))) := by
  simp [reduceOp, sameSize]

/-- The guard of U7 refuses where a register has elements of another size than dA's. -/
theorem sameSize_refuses {s : State} {a : DReg} {regs : List DReg} (h : ¬ s.SameSize a regs) (rest : Result) :
    sameSize (regs.map s.typeOf) (s.typeOf a) rest = .refused .vecMixedSize :=
  sameSize_refused (fun hall => h fun _ hn => hall _ (List.mem_map_of_mem hn)) rest

/-- The instruction asks for 64-bit types among `regs64` first, then for the element sizes of `regs`; where `regs64` is empty
the first guard is no guard (R121, R120, U7; log entry 19). -/
def GuardedBy (s : State) (i : Instr) (a : DReg) (regs regs64 : List DReg) : Prop :=
  ∃ rest, exec i s = unless64 (regs64.map s.typeOf) s (sameSize (regs.map s.typeOf) (s.typeOf a) rest)

theorem GuardedBy.refuses {s : State} {i : Instr} {a : DReg} {regs regs64 : List DReg} (hg : GuardedBy s i a regs regs64)
    (hs : ¬ s.SameSize a regs) (h64 : s.No64 regs64) : exec i s = .refused .vecMixedSize := by
  obtain ⟨rest, he⟩ := hg
  exact he.trans ((h64.unless64 _).trans (sameSize_refuses hs rest))

/-- Settles O33: the vector forms and the reductions have the two guards in this order, and the second refuses. -/
theorem mixedElementSizesAreRefused : Obligations.MixedElementSizesAreRefused := by
  intro s a b c d i p hp
  refine GuardedBy.refuses ?_
  have reduction (op : TVal → TVal → TVal) := reduceOp_eq_sameSize op a b s
  revert p
  simp only [List.forall_mem_cons, List.not_mem_nil, false_imp_iff, implies_true, and_true]
  refine ⟨⟨_, rfl⟩, ⟨_, rfl⟩, ⟨_, rfl⟩, ⟨_, rfl⟩, ⟨_, rfl⟩, ⟨_, rfl⟩, ⟨_, rfl⟩, ⟨_, rfl⟩, ⟨_, rfl⟩, ⟨_, rfl⟩,
    ⟨_, rfl⟩, ⟨_, rfl⟩, ⟨_, rfl⟩, ⟨_, rfl⟩, ⟨_, rfl⟩, ⟨_, reduction .add⟩,
    ⟨_, congrArg (unless64 ([a].map s.typeOf) s) (reduction .mul)⟩, ⟨_, reduction .max⟩,
    ⟨_, reduction .min⟩, ⟨_, reduction .and⟩, ⟨_, reduction .or⟩, ⟨_, reduction .xor⟩⟩

/-! ### Sums and products of a line -/

theorem computes_cast (T : Ty) (v : TVal) : Computes (cast T v) T (wrapTo T v.val) := ⟨rfl, cast_bits T v⟩

theorem wrapTo_wrapTo (T : Ty) (z : Int) : wrapTo T (wrapTo T z) = wrapTo T z := by
  rw [← wrapTo_emod, wrapTo_mod, wrapTo_emod]

/-- A computed value is its own cast to its type. -/
theorem Computes.cast_eq {v : TVal} {T : Ty} {z : Int} (h : Computes v T z) : cast T v = v := by
  have hbits : (cast T v).bits = v.bits := by
    apply BitVec.eq_of_toNat_eq
    rw [cast_bits, h.val, patternOf_wrapTo, patternOf_wrapTo, h.2]
  obtain ⟨rfl, -⟩ := h
  exact congrArg (TVal.mk v.ty) hbits

/-- An operation at a type applies to computed values, not only to casts. -/
theorem ComputesAt.computes {T : Ty} {op : TVal → TVal → TVal} {g : Int → Int → Int} (hg : ComputesAt T op g)
    {v w : TVal} {x y : Int} (hv : Computes v T x) (hw : Computes w T y) :
    Computes (op v w) T (g (wrapTo T x) (wrapTo T y)) := by
  have h := hg v w
  rwa [hv.cast_eq, hw.cast_eq, hv.val, hw.val, wrapTo_wrapTo, wrapTo_wrapTo] at h

theorem reduce_succ (op : TVal → TVal → TVal) (e : Nat → TVal) (n : Nat) :
    reduce op e (n + 2) = op (reduce op e (n + 1)) (e (n + 1)) := by
  simp [reduce, List.range_succ]

/-- A reduction computes `f n` of its first `n` elements where, modulo the width, `f` starts with the first element and goes
on by the operation (R150). -/
theorem reduce_computes {T : Ty} {op : TVal → TVal → TVal} {g : Int → Int → Int} (hg : ComputesAt T op g)
    {e : Nat → TVal} {z f : Nat → Int} (he : ∀ k, Computes (e k) T (z k)) (hone : f 1 = z 0)
    (hsucc : ∀ n, g (wrapTo T (f n)) (wrapTo T (z n)) % 2 ^ T.width = f (n + 1) % 2 ^ T.width) :
    ∀ n, Computes (reduce op e (n + 1)) T (f (n + 1))
  | 0 => hone ▸ he 0
  | n + 1 => by
    rw [reduce_succ]
    exact (hg.computes (reduce_computes hg he hone hsucc n) (he (n + 1))).congr (hsucc (n + 1))

theorem reduce_add_computes {T : Ty} {e : Nat → TVal} {z : Nat → Int} (he : ∀ k, Computes (e k) T (z k)) (n : Nat) :
    Computes (reduce TVal.add e (n + 1)) T ((List.range (n + 1)).map z).sum := by
  refine reduce_computes (f := fun m => ((List.range m).map z).sum) (computesAt_add T) he (by simp) (fun m => ?_) n
  rw [List.sum_range_succ]
  exact Int.ModEq.add (wrapTo_mod T _) (wrapTo_mod T _)

theorem reduce_mul_computes {T : Ty} {e : Nat → TVal} {z : Nat → Int} (he : ∀ k, Computes (e k) T (z k)) (n : Nat) :
    Computes (reduce TVal.mul e (n + 1)) T ((List.range (n + 1)).map z).prod := by
  refine reduce_computes (f := fun m => ((List.range m).map z).prod) (computesAt_mul T) he (by simp) (fun m => ?_) n
  rw [List.prod_range_succ]
  exact Int.ModEq.mul (wrapTo_mod T _) (wrapTo_mod T _)

theorem exists_lanes_eq_succ (T : Ty) : ∃ n, T.lanes = n + 1 := by
  refine Nat.exists_eq_succ_of_ne_zero fun h => ?_
  have := size_mul_lanes T
  rw [h] at this
  omega

/-- A reduction that gets past its guards writes what it computes into dA's scalar (R150). -/
theorem reduceOp_gives {s : State} {i : Instr} {op : TVal → TVal → TVal} {a b : DReg} {f : Nat → Int}
    (hs : s.SameSize a [b]) (he : exec i s = reduceOp op a b s)
    (h : ∀ n, Computes (reduce op (fun k => cast (s.typeOf a) (s.lane b k)) (n + 1)) (s.typeOf a) (f (n + 1))) :
    GivesScalar s i a (f (s.typeOf a).lanes) := by
  rw [reduceOp_eq_sameSize, hs.sameSize] at he
  refine ⟨_, _, he, writeScalar_written s a ?_, advance_fallsThrough _⟩
  obtain ⟨n, hn⟩ := exists_lanes_eq_succ (s.typeOf a)
  rw [hn]
  exact h n

/-- Settles O34: wrapping at each step and wrapping once at the end agree modulo the width. -/
theorem reduceSumAndProductResult : Obligations.ReduceSumAndProductResult := by
  intro s a b hs
  have lanes (k : Nat) : Computes (cast (s.typeOf a) (s.lane b k)) (s.typeOf a) (s.laneVal (s.typeOf a) b k) :=
    computes_cast _ _
  refine ⟨?_, fun h64 => ?_⟩
  · exact reduceOp_gives (f := fun n => ((List.range n).map _).sum) hs rfl (reduce_add_computes lanes)
  · exact reduceOp_gives (f := fun n => ((List.range n).map _).prod) hs (h64.unless64 _) (reduce_mul_computes lanes)

end Sys2Proof.Machine
end

section
/-! The statements about the greatest and the least element of a line (O35) and about the bitwise combination of its
elements (O36). -/

namespace Sys2Proof.Machine

/-! ### The greatest and the least element -/

/-- The operation answers one of its two values, and both stand in the relation `R` to the answer. -/
def Selects (R : Int → Int → Prop) (op : TVal → TVal → TVal) : Prop :=
  ∀ x y, (op x y = x ∨ op x y = y) ∧ R x.val (op x y).val ∧ R y.val (op x y).val

theorem selects_max : Selects (· ≤ ·) TVal.max := fun x y => by
  unfold TVal.max
  split
  · next h => exact ⟨.inr rfl, h.le, le_rfl⟩
  · next h => exact ⟨.inl rfl, le_rfl, not_lt.1 h⟩

theorem selects_min : Selects (· ≥ ·) TVal.min := fun x y => by
  unfold TVal.min
  split
  · next h => exact ⟨.inr rfl, h.le, le_rfl⟩
  · next h => exact ⟨.inl rfl, le_rfl, not_lt.1 h⟩

/-- A reduction by an operation that selects answers an element to which all elements stand in the relation (R150). -/
theorem Selects.exists_reduce_eq {R : Int → Int → Prop} [IsPreorder Int R] {op : TVal → TVal → TVal}
    (hop : Selects R op) (e : Nat → TVal) :
    ∀ n, ∃ m, m < n + 1 ∧ (∀ k, k < n + 1 → R (e k).val (e m).val) ∧ reduce op e (n + 1) = e m
  | 0 => ⟨0, Nat.one_pos, fun k hk => by rw [Nat.lt_one_iff.1 hk]; exact refl_of R _, rfl⟩
  | n + 1 => by
    obtain ⟨m, hm, hall, hred⟩ := hop.exists_reduce_eq e n
    obtain ⟨hpick, hold, hnew⟩ := hop (e m) (e (n + 1))
    have habove (k : Nat) (hk : k < n + 1 + 1) : R (e k).val (op (e m) (e (n + 1))).val := by
      rcases Nat.lt_succ_iff_lt_or_eq.1 hk with hk | rfl
      · exact trans_of R (hall k hk) hold
      · exact hnew
    rw [reduce_succ, hred]
    rcases hpick with heq | heq
    · exact ⟨m, by omega, heq ▸ habove, heq⟩
    · exact ⟨n + 1, by omega, heq ▸ habove, heq⟩

/-- A computed value is the one computed from the integer it denotes. -/
theorem Computes.self {v : TVal} {T : Ty} {z : Int} (h : Computes v T z) : Computes v T v.val := by
  refine h.congr ?_
  rw [h.val, wrapTo_mod]

/-- A reduction by an operation that selects gives an element of dB to which all elements stand in the relation (R150). -/
theorem Selects.gives {R : Int → Int → Prop} [IsPreorder Int R] {op : TVal → TVal → TVal} (hop : Selects R op)
    {s : State} {i : Instr} {a b : DReg} (hs : s.SameSize a [b]) (he : exec i s = reduceOp op a b s) :
    ∃ m, m < (s.typeOf a).lanes ∧
      (∀ k, k < (s.typeOf a).lanes → R (s.laneVal (s.typeOf a) b k) (s.laneVal (s.typeOf a) b m)) ∧
      GivesScalar s i a (s.laneVal (s.typeOf a) b m) := by
  have hselect := hop.exists_reduce_eq fun k => cast (s.typeOf a) (s.lane b k)
  have hgives := reduceOp_gives (f := fun n => (reduce op (fun k => cast (s.typeOf a) (s.lane b k)) n).val) hs he
    fun n => by
      obtain ⟨m, -, -, hred⟩ := hselect n
      rw [hred]
      exact (computes_cast _ _).self
  obtain ⟨n, hn⟩ := exists_lanes_eq_succ (s.typeOf a)
  obtain ⟨m, hm, hall, hred⟩ := hselect n
  simp only [hn, hred, val_cast] at hgives hall ⊢
  exact ⟨m, hm, hall, hgives⟩

/-- Settles O35: `max.r` and `min.r` select, for the orders `≤` and `≥`. -/
theorem reduceMaxAndMinResult : Obligations.ReduceMaxAndMinResult :=
  fun _ _ _ hs => ⟨selects_max.gives hs rfl, selects_min.gives hs rfl⟩

/-! ### The bitwise combination -/

/-- The patterns of the first `n` elements combined from `unit` on (R155 to R157). -/
def foldPatterns (g : Nat → Nat → Nat) (unit : Nat) (T : Ty) (z : Nat → Int) (n : Nat) : Nat :=
  ((List.range n).map fun k => patternOf T (z k)).foldl g unit

theorem foldPatterns_succ (g : Nat → Nat → Nat) (unit : Nat) (T : Ty) (z : Nat → Int) (n : Nat) :
    foldPatterns g unit T z (n + 1) = g (foldPatterns g unit T z n) (patternOf T (z n)) := by
  simp [foldPatterns, List.range_succ]

/-- An operation on patterns that acts within the low bits and has a unit reduces a line to the fold of its patterns. -/
theorem reduce_patterns_computes {T : Ty} {op : TVal → TVal → TVal} {g : Nat → Nat → Nat} {unit : Nat}
    (hg : ComputesAt T op fun x y => (g (patternOf T x) (patternOf T y) : Nat))
    (hmod : ∀ x y, g x y % 2 ^ T.width = g (x % 2 ^ T.width) (y % 2 ^ T.width))
    (hunit : ∀ x, x < 2 ^ T.width → g unit x = x) {e : Nat → TVal} {z : Nat → Int}
    (he : ∀ k, Computes (e k) T (z k)) (n : Nat) :
    Computes (reduce op e (n + 1)) T (foldPatterns g unit T z (n + 1)) := by
  have hpat (k : Nat) : Computes (e k) T (patternOf T (z k)) :=
    (he k).congr (by rw [patternOf_cast, Int.emod_emod])
  refine reduce_computes (f := fun m => foldPatterns g unit T z m) hg hpat ?_ (fun m => ?_) n
  · exact congrArg Nat.cast (hunit _ (patternOf_lt T (z 0)))
  · simp only [patternOf_wrapTo, patternOf_nat, foldPatterns_succ]
    rw [← hmod]
    push_cast
    exact Int.emod_emod _ _

section
variable {s : State} {i : Instr} {op : TVal → TVal → TVal} {a b : DReg} {g : Nat → Nat → Nat} {unit : Nat}

/-- A bitwise reduction gives the fold of the patterns of dB's elements (R150, R155 to R157). -/
theorem reduceOp_gives_patterns (hs : s.SameSize a [b])
    (hg : ComputesAt (s.typeOf a) op fun x y => (g (patternOf (s.typeOf a) x) (patternOf (s.typeOf a) y) : Nat))
    (hmod : ∀ x y, g x y % 2 ^ (s.typeOf a).width = g (x % 2 ^ (s.typeOf a).width) (y % 2 ^ (s.typeOf a).width))
    (hunit : ∀ x, x < 2 ^ (s.typeOf a).width → g unit x = x) (he : exec i s = reduceOp op a b s) :
    GivesScalar s i a (foldPatterns g unit (s.typeOf a) (fun k => (s.lane b k).val) (s.typeOf a).lanes) :=
  reduceOp_gives (f := fun n => foldPatterns g unit (s.typeOf a) (fun k => (s.lane b k).val) n) hs he
    (reduce_patterns_computes hg hmod hunit fun _ => computes_ofInt _ _)

end

/-- Settles O36: all ones is the unit of the conjunction on patterns, zero that of the other two. -/
theorem reduceBitwiseResult : Obligations.ReduceBitwiseResult := by
  intro s a b hs
  simp only [List.forall_mem_cons, List.not_mem_nil, false_imp_iff, implies_true, and_true]
  refine ⟨?_, ?_, ?_⟩
  · refine reduceOp_gives_patterns hs (computesAt_and _) (fun _ _ => Nat.and_mod_two_pow) (fun x hx => ?_) rfl
    rw [Nat.and_comm, Nat.and_two_pow_sub_one_of_lt_two_pow hx]
  · exact reduceOp_gives_patterns hs (computesAt_or _) (fun _ _ => Nat.or_mod_two_pow) (fun x _ => Nat.zero_or x) rfl
  · exact reduceOp_gives_patterns hs (computesAt_xor _) (fun _ _ => Nat.xor_mod_two_pow) (fun x _ => Nat.zero_xor x) rfl

end Sys2Proof.Machine
end

section
/-! The statements about the loads of Groups 2, 3 and 4 (O37 to O39): each load is `loadFrom` at its group's address. -/

namespace Sys2Proof.Machine

/-- The address of Group 3 is dB's address aligned as a number, plus the displacement, modulo `2^32` (R192). -/
theorem addrImm_eq (s : State) (b : DReg) (imm : Int) :
    addrImm s b imm = BitVec.ofInt 32 ((alignNat (s.typeOf b) (s.d b).addr.toNat : Nat) + imm) := by
  rw [addrImm, align_eq, BitVec.ofInt_add, BitVec.ofInt_natCast]

/-- A property of the eight loads of a group is shown at one load after another. -/
theorem forall_mem_eight {α : Type} {P : α → Prop} {u8 s8 u16 s16 u32 s32 u64 s64 : α}
    (h : P u8 ∧ P s8 ∧ P u16 ∧ P s16 ∧ P u32 ∧ P s32 ∧ P u64 ∧ P s64) :
    ∀ p ∈ [u8, s8, u16, s16, u32, s32, u64, s64], P p := by
  simpa only [List.forall_mem_cons, List.not_mem_nil, false_imp_iff, implies_true, and_true] using h

/-- Instructions paired with types that are `loadFrom` at one address load the line of that address (R165). -/
theorem eachLoadFrom_gives {s : State} {a : DReg} {ea : Addr} {loads : List (Instr × Ty)} (hw : s.mem.wf = true)
    (he : ∀ p ∈ loads, exec p.1 s = loadFrom p.2 a ea s) : ∀ p ∈ loads, GivesLoad s p.1 a ea p.2 :=
  fun p hp => loadFrom_gives hw (he p hp)

/-- Settles O37: the eight loads are `loadFrom` at dB's scalar plus the displacement. -/
theorem loadFromBaseAndImmediate : Obligations.LoadFromBaseAndImmediate := by
  intro s a b imm hw
  rw [← baseImm_eq]
  exact eachLoadFrom_gives hw (forall_mem_eight ⟨rfl, rfl, rfl, rfl, rfl, rfl, rfl, rfl⟩)

/-- Settles O38: the eight loads are `loadFrom` at dB's aligned address plus the displacement. -/
theorem loadFromAddressAndImmediate : Obligations.LoadFromAddressAndImmediate := by
  intro s a b imm hw
  rw [← addrImm_eq]
  exact eachLoadFrom_gives hw (forall_mem_eight ⟨rfl, rfl, rfl, rfl, rfl, rfl, rfl, rfl⟩)

/-- Settles O39: the eight loads are `loadFrom` at the sum of the two scalars. -/
theorem loadFromBaseAndIndex : Obligations.LoadFromBaseAndIndex := by
  intro s a b c hw
  rw [← baseIndex_eq]
  exact eachLoadFrom_gives hw (forall_mem_eight ⟨rfl, rfl, rfl, rfl, rfl, rfl, rfl, rfl⟩)

end Sys2Proof.Machine
end

section
/-! The statement about duplicates (O41): each of the eight is `dupOp` at its mnemonic's type. -/

namespace Sys2Proof.Machine

/-- What O41 says of a duplicate of dB's scalar into dA at type `T`: the elements are written, then the type is set. -/
def GivesDuplicate (s : State) (i : Instr) (a b : DReg) (T : Ty) : Prop :=
  ∃ v u t, exec i s = .next t ∧ VectorWritten s v a T (fun _ => (s.scalar b).val) ∧ TypeSet v u a T ∧ FallsThrough u t

/-- The common form of Group 6: each element written is the cast of dB's scalar as it is before the write (R8, R215). -/
theorem dupOp_gives {s : State} {i : Instr} {T : Ty} {a b : DReg} (he : exec i s = dupOp T a b s) :
    GivesDuplicate s i a b T :=
  have elements : ∀ k, k < T.lanes → Computes (cast T (s.scalar b)) T (s.scalar b).val :=
    fun _ _ => computes_ofInt T (s.scalar b).val
  ⟨_, _, _, he, writeVector_written s a T elements, setType_typeSet _ a T, advance_fallsThrough _⟩

/-- Settles O41: the eight duplicates are `dupOp` at their types. -/
theorem duplicateResult : Obligations.DuplicateResult := fun s a b =>
  forall_mem_eight (P := fun p : Instr × Ty => GivesDuplicate s p.1 a b p.2)
    ⟨dupOp_gives rfl, dupOp_gives rfl, dupOp_gives rfl, dupOp_gives rfl,
      dupOp_gives rfl, dupOp_gives rfl, dupOp_gives rfl, dupOp_gives rfl⟩

end Sys2Proof.Machine
end

section
/-! The statement about the refusals of `fetch` and of Group 9 (O53): ranges and streams past number 63, fills of the running
`ipc`, and what `ldm` refuses of its streams. -/

namespace Sys2Proof.Machine

/-! ### Ranges and streams -/

/-- A range that ends at number 63 reaches the `ipc` of its bank. -/
theorem ipcOf_mem_bankRange (m : Mode) {first : Fin 64} {n : Nat} (h : first.val + n = 63) :
    ipcOf m ∈ bankRange m first (n + 1) := by
  have hlast : first + Fin.ofNat 64 n = 63 := by
    apply Fin.ext
    rw [Fin.val_add, Fin.val_ofNat, Nat.add_mod_mod, h]
    rfl
  refine List.mem_map.2 ⟨n, List.self_mem_range_succ, ?_⟩
  rw [hlast]
  cases m <;> rfl

/-- A list of `n` places holds `n` places (R257). -/
theorem slots_length {s : State} : ∀ {n k e : Nat} {l : List (DReg × Nat)}, s.slots n k e = some l → l.length = n
  | 0, _, _, _, h => by cases h; rfl
  | n + 1, k, e, l, h => by
    unfold State.slots at h
    split at h
    · obtain ⟨rest, hrest, rfl⟩ := Option.map_eq_some_iff.1 h
      rw [List.length_cons]
      split at hrest <;> rw [slots_length hrest]
    · cases h

theorem stream_length {s : State} {first : DReg} {n : Nat} {l : List (DReg × Nat)} (h : s.stream first n = some l) :
    l.length = n := slots_length h

/-- A fill of a list of ILARs that the running `ipc` is among is refused (R230, R262, U9). -/
theorem fillIlars_intoIpc {s : State} {regs : List PhysReg} {addrs : List Addr} (hl : regs.length = addrs.length)
    (h : ipcOf s.mode ∈ regs) : fillIlars (regs.zip addrs) s = .refused .fetchIntoIpc := by
  rw [← List.map_fst_zip hl.le] at h
  obtain ⟨x, hx, he⟩ := List.mem_map.1 h
  have hown : ((regs.zip addrs).any fun x => x.1 == ipcOf s.mode) = true :=
    List.any_eq_true.2 ⟨x, hx, beq_iff_eq.2 he⟩
  exact if_pos hown

/-! ### `fetch` -/

theorem fetchFrom_pastBank {s : State} {a : IReg} {j : Nat} (h : 64 ≤ a.val + j) (ea : Addr) :
    fetchFrom a ea j s = .refused .registerRange := by
  have hr : ¬ InBank a (j + 1) := by unfold InBank; omega
  rw [fetchFrom, regRange_none hr]

theorem fetchFrom_intoIpc {s : State} {a : IReg} {j : Nat} (h : a.val + j = 63) (ea : Addr) :
    fetchFrom a ea j s = .refused .fetchIntoIpc := by
  rw [fetchFrom, regRange_some (.inr (by omega))]
  exact fillIlars_intoIpc (by simp [bankRange_length]) (ipcOf_mem_bankRange _ h)

/-! ### Group 9, but `ldm` -/

section
variable {s : State} {bank : Mode} {first : Fin 64} {n : Nat}

theorem gather_pastBank (hb : BankOpen s.mode bank) {a : DReg} (h : ¬ InBank first n ∨ s.stream a n = none)
    (value : PhysReg → BitVec 32) : gather bank value a first n s = .refused .registerRange := by
  rw [gather, bankAllowed_of hb]
  obtain hr | hs := h
  · rw [regRange_none hr]
  · rw [hs]; cases regRange bank first n <;> rfl

theorem onRange_pastBank (hb : BankOpen s.mode bank) (h : ¬ InBank first n) (code : BitVec 32)
    (op : State → PhysReg → State) : onRange code bank op first n s = .refused .registerRange := by
  rw [onRange, bankAllowed_of hb, regRange_none h]

theorem fetchMultiple_pastBank (hb : BankOpen s.mode bank) {b : DReg} (h : ¬ InBank first n ∨ s.stream b n = none) :
    fetchMultiple bank first b n s = .refused .registerRange := by
  rw [fetchMultiple, bankAllowed_of hb]
  obtain hr | hs := h
  · rw [regRange_none hr]
  · rw [hs]; cases regRange bank first n <;> rfl

/-- The stream gives one address for each ILAR of the range, so the running `ipc` is filled if it is in the range. -/
theorem fetchMultiple_intoIpc (hb : BankOpen s.mode bank) {b : DReg} (hr : InBank first n) (hs : s.stream b n ≠ none)
    (hi : ipcOf s.mode ∈ bankRange bank first n) : fetchMultiple bank first b n s = .refused .fetchIntoIpc := by
  obtain ⟨addrs, hs⟩ := Option.ne_none_iff_exists'.1 hs
  rw [fetchMultiple, bankAllowed_of hb, regRange_some hr, hs]
  exact fillIlars_intoIpc (by rw [bankRange_length, readStream_eq, List.length_map, stream_length hs]) hi

end

/-! ### `ldm` -/

/-- The codes of types are the numbers below 8 (R7, R29). -/
theorem ofCode_isSome_iff (n : Nat) : (Ty.ofCode n).isSome ↔ n < 8 := by
  constructor
  · unfold Ty.ofCode
    split <;> simp
  · exact (by decide : ∀ n < 8, (Ty.ofCode n).isSome) n

/-- A stream is read as types if every one of its values is the code of a type (R261). -/
theorem typesOf_isSome_iff (codes : List (BitVec 32)) : (typesOf codes).isSome ↔ ∀ c ∈ codes, c.toNat < 8 := by
  unfold typesOf
  induction codes with
  | nil => simp
  | cons c codes ih =>
    rw [List.forall_mem_cons, ← ih, ← ofCode_isSome_iff, List.mapM_cons]
    cases Ty.ofCode c.toNat <;> cases codes.mapM fun c => Ty.ofCode c.toNat <;> simp

/-- The values of a stream, as u32, are those of its places. -/
theorem forall_mem_readStream {s : State} {slots : List (DReg × Nat)} {P : BitVec 32 → Prop} :
    (∀ c ∈ s.readStream slots, P c) ↔ ∀ x ∈ slots, P (BitVec.ofInt 32 (s.lane x.1 x.2).val) := by
  rw [readStream_eq, List.forall_mem_map]

section
variable {s : State} {bank : Mode} {a b c : DReg} {n : Nat} {addrs codes : List (DReg × Nat)}

theorem loadMultiple_pastBank (hb : BankOpen s.mode bank)
    (h : ¬ InBank a n ∨ s.stream b n = none ∨ s.stream c n = none) :
    loadMultiple bank a b c n s = .refused .registerRange := by
  rw [loadMultiple, bankAllowed_of hb]
  obtain hr | hs | hs := h
  · rw [regRange_none hr]
  · rw [hs]; cases regRange bank a n <;> rfl
  · rw [hs]; cases regRange bank a n <;> cases s.stream b n <;> rfl

theorem loadMultiple_typeCode (hb : BankOpen s.mode bank) (hr : InBank a n) (hs : s.stream b n = some addrs)
    (hc : s.stream c n = some codes) (h : ∃ x ∈ codes, 8 ≤ (BitVec.ofInt 32 (s.lane x.1 x.2).val).toNat) :
    loadMultiple bank a b c n s = .refused .ldmTypeCode := by
  have htypes : typesOf (s.readStream codes) = none := by
    rw [← Option.not_isSome_iff_eq_none, typesOf_isSome_iff, forall_mem_readStream]
    push Not
    exact h
  rw [loadMultiple, bankAllowed_of hb, regRange_some hr, hs, hc]
  dsimp only
  rw [htypes]

theorem loadMultiple_overlap (hb : BankOpen s.mode bank) (hr : InBank a n) (hs : s.stream b n = some addrs)
    (hc : s.stream c n = some codes) (hcodes : ∀ x ∈ codes, (BitVec.ofInt 32 (s.lane x.1 x.2).val).toNat < 8)
    (h : ∃ x ∈ addrs ++ codes, s.reg x.1 ∈ bankRange bank a n) :
    loadMultiple bank a b c n s = .refused .ldmOverlap := by
  obtain ⟨types, htypes⟩ := Option.isSome_iff_exists.1 ((typesOf_isSome_iff _).2 (forall_mem_readStream.2 hcodes))
  obtain ⟨x, hx, hm⟩ := h
  have hread : ((addrs ++ codes).any fun x => (bankRange bank a n).contains (s.reg x.1)) = true :=
    List.any_eq_true.2 ⟨x, hx, List.contains_iff_mem.2 hm⟩
  rw [loadMultiple, bankAllowed_of hb, regRange_some hr, hs, hc]
  dsimp only
  rw [htypes]
  exact if_pos hread

end

theorem forall_mem_pair {α : Type} {P : α → Prop} {x y : α} (hx : P x) (hy : P y) : ∀ i ∈ [x, y], P i :=
  List.forall_mem_cons.2 ⟨hx, List.forall_mem_singleton.2 hy⟩

theorem forall_mem_triple {α : Type} {P : α → Prop} {x y z : α} (hx : P x) (hy : P y) (hz : P z) : ∀ i ∈ [x, y, z], P i :=
  List.forall_mem_cons.2 ⟨hx, forall_mem_pair hy hz⟩

/-- Settles O53: both fetches are `fetchFrom`, and either S of Group 9 is the common form of its bank. -/
theorem registerRangeRefusals : Obligations.RegisterRangeRefusals := by
  intro s bank a b c imm n hb
  refine ⟨fun h => ?fetchPast, fun h => ?fetchIpc, fun h => ?gather, fun h => ?onRange, fun h => ?fetchmPast,
    fun hr hs hi => ?fetchmIpc, fun h => ?ldmPast, fun addrs codes hr hs hc => ⟨fun h => ?ldmCode, fun hcodes h => ?ldmOverlap⟩⟩
  case fetchPast => exact forall_mem_pair (fetchFrom_pastBank h _) (fetchFrom_pastBank h _)
  case fetchIpc => exact forall_mem_pair (fetchFrom_intoIpc h _) (fetchFrom_intoIpc h _)
  case gather =>
    cases bank <;> exact forall_mem_triple (gather_pastBank hb h _) (gather_pastBank hb h _) (gather_pastBank hb h _)
  case onRange =>
    cases bank <;>
      exact forall_mem_triple (onRange_pastBank hb h _ _) (onRange_pastBank hb h _ _) (onRange_pastBank hb h _ _)
  case fetchmPast => cases bank <;> exact fetchMultiple_pastBank hb h
  case fetchmIpc => cases bank <;> exact fetchMultiple_intoIpc hb hr hs hi
  case ldmPast => cases bank <;> exact loadMultiple_pastBank hb h
  case ldmCode => cases bank <;> exact loadMultiple_typeCode hb hr hs hc h
  case ldmOverlap => cases bank <;> exact loadMultiple_overlap hb hr hs hc hcodes h

end Sys2Proof.Machine
end

section
/-! The statements about the conditions of Group 8 (O44, O45, O46): which way `sel`, `jz` and `jnz` go, and what `reti` and
`retx` do in either mode. -/

namespace Sys2Proof.Machine

/-! ### The two ways of a conditional jump -/

section
variable {s : State} {x : Instr} {cond : Bool} {C : Prop} {b : IReg} {i j : Nat}

/-- The common form of `sel`: its condition chooses between the two indices (R241). -/
theorem jumpEither_gives (hc : cond = true ↔ C) (he : exec x s = .next (s.jump b (if cond then i else j))) :
    (C → ∃ t, exec x s = .next t ∧ Jumps s t b i) ∧ (¬ C → ∃ t, exec x s = .next t ∧ Jumps s t b j) := by
  refine ⟨fun h => ⟨s.jump b i, ?_, jump_jumps s b i⟩, fun h => ⟨s.jump b j, ?_, jump_jumps s b j⟩⟩
  · rw [he, if_pos (hc.2 h)]
  · rw [he, if_neg (mt hc.1 h)]

/-- The common form of `jnz` (R243). -/
theorem jumpOrFall_gives (hc : cond = true ↔ C) (he : exec x s = if cond then .next (s.jump b i) else fallThrough s) :
    (C → ∃ t, exec x s = .next t ∧ Jumps s t b i) ∧ (¬ C → ∃ t, exec x s = .next t ∧ FallsThrough s t) :=
  ⟨fun h => ⟨_, he.trans (if_pos (hc.2 h)), jump_jumps s b i⟩,
    fun h => ⟨_, he.trans (if_neg (mt hc.1 h)), advance_fallsThrough s⟩⟩

/-- The common form of `jz` (R242). -/
theorem fallOrJump_gives (hc : cond = true ↔ C) (he : exec x s = if cond then fallThrough s else .next (s.jump b i)) :
    (C → ∃ t, exec x s = .next t ∧ FallsThrough s t) ∧ (¬ C → ∃ t, exec x s = .next t ∧ Jumps s t b i) :=
  ⟨fun h => ⟨_, he.trans (if_pos (hc.2 h)), advance_fallsThrough s⟩,
    fun h => ⟨_, he.trans (if_neg (mt hc.1 h)), jump_jumps s b i⟩⟩

end

/-- Settles O44: both forms of `sel` jump to the index that their condition chooses. -/
theorem selChoosesByCondition : Obligations.SelChoosesByCondition := by
  intro s a b i j
  obtain ⟨scalarNonZero, scalarZero⟩ := jumpEither_gives (nonZeroScalar_iff s a) (exec_selS s a b i j)
  obtain ⟨vectorNonZero, vectorZero⟩ := jumpEither_gives (nonZeroVector_iff s a) (exec_selV s a b i j)
  exact ⟨scalarNonZero, scalarZero, vectorNonZero, vectorZero⟩

/-- Settles O45: `jnz` and `jz` have the same two outcomes, on opposite conditions. -/
theorem jzAndJnzJumpByCondition : Obligations.JzAndJnzJumpByCondition := by
  intro s a b i
  obtain ⟨jnzSJumps, jnzSFalls⟩ := jumpOrFall_gives (nonZeroScalar_iff s a) (exec_jnzS s a b i)
  obtain ⟨jzSFalls, jzSJumps⟩ := fallOrJump_gives (nonZeroScalar_iff s a) (exec_jzS s a b i)
  obtain ⟨jnzVJumps, jnzVFalls⟩ := jumpOrFall_gives (nonZeroVector_iff s a) (exec_jnzV s a b i)
  obtain ⟨jzVFalls, jzVJumps⟩ := fallOrJump_gives (nonZeroVector_iff s a) (exec_jzV s a b i)
  exact ⟨fun h => ⟨jnzSJumps h, jzSFalls h⟩, fun h => ⟨jzSJumps h, jnzSFalls h⟩,
    fun h => ⟨jnzVJumps h, jzVFalls h⟩, fun h => ⟨jzVJumps h, jnzVFalls h⟩⟩

/-! ### `reti` and `retx` -/

/-- The return of R247 writes the mode, and `ie` as it is given: both `ipc` and the `iv` bits stay. -/
theorem returnToUser_returns (s : State) (ie : Bool) : ReturnsToUser s { s with ie := ie }.returnToUser ie :=
  ⟨.refl _, fun k => dlar_congr rfl k, sameIlars_of rfl rfl rfl, sameMem_of rfl⟩

section
variable (s : State) (a : DReg)

theorem exec_retiS :
    exec (.retiS a) s = supervisorOnly 0x5 s (returnIf (nonZeroScalar s a) s { s with ie := true }) := rfl
theorem exec_retiV :
    exec (.retiV a) s = supervisorOnly 0x5 s (returnIf (nonZeroVector s a) s { s with ie := true }) := rfl
theorem exec_retxS :
    exec (.retxS a) s = supervisorOnly 0x6 s (returnIf (nonZeroScalar s a) s { s with ie := s.ie }) := rfl
theorem exec_retxV :
    exec (.retxV a) s = supervisorOnly 0x6 s (returnIf (nonZeroVector s a) s { s with ie := s.ie }) := rfl

end

theorem supervisorOnly_exception {s : State} {x : Instr} {c : BitVec 32} {rest : Result} (hm : s.mode = .user)
    (he : exec x s = supervisorOnly c s rest) : GivesException s x c :=
  raise_exception (he.trans (supervisorOnly_user hm c rest))

/-- The common form of `reti` and `retx` in supervisor mode, where `ie` is what the return leaves in the flag: with a zero
condition the flag stays (R244, R245, D24). -/
theorem returnIf_gives {s : State} {x : Instr} {c : BitVec 32} {cond ie : Bool} {C : Prop} (hm : s.mode = .supervisor)
    (hc : cond = true ↔ C) (he : exec x s = supervisorOnly c s (returnIf cond s { s with ie := ie })) :
    (C → ∃ t, exec x s = .next t ∧ ReturnsToUser s t ie) ∧ (¬ C → ∃ t, exec x s = .next t ∧ FallsThrough s t) := by
  refine ⟨fun h => ⟨_, ?_, returnToUser_returns s ie⟩, fun h => supervisorOnly_fallsThrough hm (c := c) ?_⟩
  · rw [he, supervisorOnly_of hm, returnIf, if_pos (hc.2 h)]
  · rw [he, returnIf, if_neg (mt hc.1 h)]

/-- Settles O46: in supervisor mode the condition decides, in user mode the guard raises before it is looked at. -/
theorem returnsFromSupervisorMode : Obligations.ReturnsFromSupervisorMode := by
  intro s a
  refine ⟨fun hm => ?supervisor, fun hm => ?user⟩
  case supervisor =>
    obtain ⟨retiSReturns, retiSFalls⟩ := returnIf_gives hm (nonZeroScalar_iff s a) (exec_retiS s a)
    obtain ⟨retxSReturns, retxSFalls⟩ := returnIf_gives hm (nonZeroScalar_iff s a) (exec_retxS s a)
    obtain ⟨retiVReturns, retiVFalls⟩ := returnIf_gives hm (nonZeroVector_iff s a) (exec_retiV s a)
    obtain ⟨retxVReturns, retxVFalls⟩ := returnIf_gives hm (nonZeroVector_iff s a) (exec_retxV s a)
    exact ⟨fun h => ⟨retiSReturns h, retxSReturns h⟩, fun h => ⟨retiVReturns h, retxVReturns h⟩,
      fun h => forall_mem_pair (retiSFalls h) (retxSFalls h), fun h => forall_mem_pair (retiVFalls h) (retxVFalls h)⟩
  case user =>
    exact ⟨forall_mem_pair (supervisorOnly_exception hm (exec_retiS s a)) (supervisorOnly_exception hm (exec_retiV s a)),
      forall_mem_pair (supervisorOnly_exception hm (exec_retxS s a)) (supervisorOnly_exception hm (exec_retxV s a))⟩

end Sys2Proof.Machine
end

section
/-! The statements about streams of elements (O23), about `getaddrs` and `gettypes`, which write one (O47), and about the
supervisor's bank in user mode (O52). -/

namespace Sys2Proof.Machine

/-! ### The bank that user mode may not name -/

/-- An instruction of Group 9 on the supervisor's bank raises its exception in user mode, whatever it would do (R255). -/
theorem bankAllowed_exception {s : State} {i : Instr} {c : BitVec 32} {rest : Result} (hm : s.mode = .user)
    (he : exec i s = bankAllowed c .supervisor s rest) : GivesException s i c :=
  raise_exception (he.trans (bankAllowed_user hm c rest))

/-- Settles O52: each of the eight is guarded by `bankAllowed` at its code. -/
theorem userModeMayNotNameTheSupervisorBank : Obligations.UserModeMayNotNameTheSupervisorBank := fun _ _ _ _ _ hm =>
  forall_mem_eight (P := fun p : Instr × BitVec 32 => GivesException _ p.1 p.2)
    ⟨bankAllowed_exception hm rfl, bankAllowed_exception hm rfl, bankAllowed_exception hm rfl,
      bankAllowed_exception hm rfl, bankAllowed_exception hm rfl, bankAllowed_exception hm rfl,
      bankAllowed_exception hm rfl, bankAllowed_exception hm rfl⟩

/-! ### Writing a stream: `getaddrs` and `gettypes` -/

/-- A u32 value cast to the type of a place is written there as its number (R8, R257). -/
theorem writeElem_ofU32_written (s : State) (n : DReg) (e : Nat) (v : BitVec 32) :
    ElementWritten s (s.writeElem (s.reg n) e (cast (s.typeOf n) (TVal.ofU32 v))) n e (v.toNat : Nat) := by
  rw [← ofU32_val]
  exact writeElem_written s n e (computes_ofInt _ _)

/-- A value of each of some LARs, written into the places of a stream, is written in order, each at the type that its DLAR
has when its turn comes (R257). -/
theorem writeStream_givesInOrder (s : State) (slots : List (DReg × Nat)) (regs : List PhysReg)
    (value : PhysReg → BitVec 32) :
    GivesInOrder (fun x y (w : (DReg × Nat) × PhysReg) => ElementWritten x y w.1.1 w.1.2 ((value w.2).toNat : Nat)) s
      (slots.zip regs) (fallThrough (s.writeStream slots (regs.map value))) := by
  rw [State.writeStream, List.zip_map_right, List.foldl_map]
  exact foldl_givesInOrder (P := fun _ => True)
    (fun t w _ => ⟨writeElem_ofU32_written t w.1.1 w.1.2 (value w.2), trivial⟩) _ trivial

theorem gather_givesInOrder {s : State} {bank : Mode} {a b : DReg} {n : Nat} {slots : List (DReg × Nat)}
    (hb : BankOpen s.mode bank) (hr : InBank b n) (hs : s.stream a n = some slots) (value : PhysReg → BitVec 32) :
    GivesInOrder (fun x y (w : (DReg × Nat) × PhysReg) => ElementWritten x y w.1.1 w.1.2 ((value w.2).toNat : Nat)) s
      (slots.zip (bankRange bank b n)) (gather bank value a b n s) := by
  rw [gather, bankAllowed_of hb, regRange_some hr, hs]
  exact writeStream_givesInOrder s slots _ value

/-- The code of a type fits the 32 bits in which `gettypes` writes it (R7, R260). -/
theorem toNat_ofNat_code (T : Ty) : (BitVec.ofNat 32 T.code).toNat = T.code := by cases T <;> rfl

theorem gettypes_givesInOrder {s : State} {bank : Mode} {a b : DReg} {n : Nat} {slots : List (DReg × Nat)}
    (hb : BankOpen s.mode bank) (hr : InBank b n) (hs : s.stream a n = some slots) :
    GivesInOrder (fun x y (w : (DReg × Nat) × PhysReg) => ElementWritten x y w.1.1 w.1.2 ((s.dlar w.2).type.code : Nat)) s
      (slots.zip (bankRange bank b n)) (gather bank (fun k => BitVec.ofNat 32 (s.dlar k).type.code) a b n s) := by
  simpa only [toNat_ofNat_code] using gather_givesInOrder hb hr hs fun k => BitVec.ofNat 32 (s.dlar k).type.code

/-- Settles O47: in either bank the three are `gather` of the addresses of DLARs, of ILARs, and of the type codes. -/
theorem gatherWritesTheStream : Obligations.GatherWritesTheStream := by
  intro s bank a b n slots hb hr hs
  have dlarAddrs := gather_givesInOrder hb hr hs fun k => (s.dlar k).addr
  have ilarAddrs := gather_givesInOrder hb hr hs fun k => (s.ilar k).addr
  have types := gettypes_givesInOrder hb hr hs
  cases bank <;> exact forall_mem_triple dlarAddrs ilarAddrs types

/-! ### The places of a stream -/

/-- The first place of a list of places is the one it was asked to start from, and the others are the list that starts at
the place after it (R257). -/
theorem slots_succ (s : State) (n e : Nat) {k : Nat} (hk : k < 64) :
    s.slots (n + 1) k e = (if e + 1 = (s.typeOf ⟨k, hk⟩).lanes then s.slots n (k + 1) 0 else s.slots n k (e + 1)).map
      ((⟨k, hk⟩, e) :: ·) := by
  rw [State.slots, dif_pos hk]

theorem slots_succ_pastBank (s : State) (n e : Nat) {k : Nat} (hk : ¬ k < 64) : s.slots (n + 1) k e = none := by
  rw [State.slots, dif_neg hk]

theorem slots_succ_eq_some {s : State} {n k e : Nat} {l : List (DReg × Nat)} (h : s.slots (n + 1) k e = some l) :
    ∃ (hk : k < 64) (rest : List (DReg × Nat)), l = (⟨k, hk⟩, e) :: rest ∧
      (if e + 1 = (s.typeOf ⟨k, hk⟩).lanes then s.slots n (k + 1) 0 else s.slots n k (e + 1)) = some rest := by
  by_cases hk : k < 64
  · rw [slots_succ s n e hk] at h
    obtain ⟨rest, hrest, rfl⟩ := Option.map_eq_some_iff.1 h
    exact ⟨hk, rest, rfl, hrest⟩
  · rw [slots_succ_pastBank s n e hk] at h
    cases h

theorem slots_head {s : State} {n k e : Nat} {l : List (DReg × Nat)} (h : s.slots n k e = some l) :
    ∀ x ∈ l.head?, x.1.val = k ∧ x.2 = e := by
  cases n with
  | zero => cases h; simp
  | succ n =>
    obtain ⟨hk, rest, rfl, -⟩ := slots_succ_eq_some h
    rintro _ ⟨⟩
    exact ⟨rfl, rfl⟩

/-- Place `y` comes after place `x` in a stream: element 0 of the next DLAR after the last element of a DLAR, at its own
type, else the next element of the same (R257). -/
def State.Follows (s : State) (x y : DReg × Nat) : Prop :=
  if x.2 + 1 = (s.typeOf x.1).lanes then y.1.val = x.1.val + 1 ∧ y.2 = 0 else y.1 = x.1 ∧ y.2 = x.2 + 1

/-- The list from the place after `x` on begins with a place that follows `x`. -/
theorem follows_head {s : State} {n : Nat} {x : DReg × Nat} {rest : List (DReg × Nat)}
    (h : (if x.2 + 1 = (s.typeOf x.1).lanes then s.slots n (x.1.val + 1) 0 else s.slots n x.1.val (x.2 + 1)) = some rest) :
    ∀ y ∈ rest.head?, s.Follows x y := by
  intro y hy
  unfold State.Follows
  split at h
  · next hlast => rw [if_pos hlast]; exact slots_head h y hy
  · next hlast => rw [if_neg hlast]; exact (slots_head h y hy).imp_left Fin.ext

/-- Along a list of places each follows the one before. -/
theorem slots_isChain {s : State} : ∀ {n k e : Nat} {l : List (DReg × Nat)}, s.slots n k e = some l → l.IsChain s.Follows
  | 0, _, _, _, h => by cases h; exact .nil
  | n + 1, k, e, l, h => by
    obtain ⟨hk, rest, rfl, hrest⟩ := slots_succ_eq_some h
    refine List.isChain_cons.2 ⟨follows_head hrest, ?_⟩
    split at hrest <;> exact slots_isChain hrest

/-! ### How far a stream can go -/

/-- The number of elements of the DLARs from number `k` to number 63, each at its own type. -/
def State.lanesFrom (s : State) (k : Nat) : Nat :=
  ((List.range (64 - k)).map fun j => (s.typeOf (Fin.ofNat 64 (k + j))).lanes).sum

/-- The sum of O23 is the number of elements from DLAR `a` on. -/
theorem lanesFrom_eq (s : State) (a : DReg) :
    s.lanesFrom a.val = ((List.range (64 - a.val)).map fun k => (s.typeOf (a + Fin.ofNat 64 k)).lanes).sum := by
  have hsum (j : Nat) : Fin.ofNat 64 (a.val + j) = a + Fin.ofNat 64 j := Fin.ext (by simp [Fin.val_add])
  simp only [State.lanesFrom, hsum]

/-- The elements from a DLAR on are its own and those from the next DLAR on. -/
theorem lanesFrom_of_lt (s : State) {k : Nat} (hk : k < 64) :
    s.lanesFrom k = (s.typeOf ⟨k, hk⟩).lanes + s.lanesFrom (k + 1) := by
  have hself : Fin.ofNat 64 (k + 0) = ⟨k, hk⟩ := Fin.ext (Nat.mod_eq_of_lt hk)
  rw [State.lanesFrom, show 64 - k = 64 - (k + 1) + 1 by omega, List.range_succ_eq_map, List.map_cons, List.sum_cons,
    List.map_map, hself]
  simp only [Function.comp_def, State.lanesFrom, Nat.succ_eq_add_one, Nat.add_assoc, Nat.add_comm 1]

theorem lanesFrom_pastBank (s : State) {k : Nat} (hk : ¬ k < 64) : s.lanesFrom k = 0 := by
  rw [State.lanesFrom, Nat.sub_eq_zero_of_le (not_lt.1 hk)]
  rfl

theorem lanes_pos (T : Ty) : 0 < T.lanes := by cases T <;> decide

/-- There are `n` places from element `e` of DLAR `k` on unless fewer elements are left. -/
theorem slots_eq_none_iff (s : State) : ∀ (n k e : Nat), (∀ hk : k < 64, e < (s.typeOf ⟨k, hk⟩).lanes) →
    (s.slots n k e = none ↔ s.lanesFrom k - e < n)
  | 0, k, e, _ => iff_of_false (by rw [State.slots]; exact Option.some_ne_none _) (Nat.not_lt_zero _)
  | n + 1, k, e, he => by
    by_cases hk : k < 64
    · have hlane := he hk
      have hfrom := lanesFrom_of_lt s hk
      rw [slots_succ s n e hk, Option.map_eq_none_iff]
      split
      · next hlast =>
        rw [slots_eq_none_iff s n (k + 1) 0 fun _ => lanes_pos _]
        omega
      · next hlast =>
        rw [slots_eq_none_iff s n k (e + 1) fun _ => by omega]
        omega
    · exact iff_of_true (slots_succ_pastBank s n e hk) (by rw [lanesFrom_pastBank s hk]; omega)

theorem stream_eq_none_iff (s : State) (a : DReg) (n : Nat) : s.stream a n = none ↔ s.lanesFrom a.val < n :=
  slots_eq_none_iff s n a.val 0 fun _ => lanes_pos _

/-- Settles O23: the places of a stream are a chain from element 0 of its first DLAR. -/
theorem streamsWalkElementByElement : Obligations.StreamsWalkElementByElement := by
  intro s a n
  rw [← lanesFrom_eq]
  refine ⟨fun slots hs => ⟨stream_length hs, fun x hx => ?first, fun j x y hx hy => ?successor⟩, stream_eq_none_iff s a n⟩
  case first =>
    obtain ⟨hreg, helem⟩ := slots_head hs x (List.head?_eq_getElem?.trans hx)
    exact Prod.ext (Fin.ext hreg) helem
  case successor =>
    obtain ⟨hlen, rfl⟩ := List.getElem?_eq_some_iff.1 hy
    obtain ⟨_, rfl⟩ := List.getElem?_eq_some_iff.1 hx
    exact (slots_isChain hs).getElem j hlen

end Sys2Proof.Machine
end

section
/-! The statements about `cpy`: the scalar forms (O54), and all twelve in user mode (O57). -/

namespace Sys2Proof.Machine

/-! ### `cpy.s` -/

/-- The common form of `cpy.s` into a DLAR: in supervisor mode the value is written at dA's type (R276, R278). -/
theorem cpyIntoScalar_gives {s : State} {i : Instr} {c : BitVec 32} {a : DReg} {v : TVal} (hm : s.mode = .supervisor)
    (he : exec i s = supervisorOnly c s (fallThrough (s.writeScalar a (cast (s.typeOf a) v)))) :
    GivesScalar s i a v.val :=
  ⟨_, _, he.trans (supervisorOnly_of hm _ _), writeScalar_written s a (computes_ofInt _ _), advance_fallsThrough _⟩

/-- A flag as a u8 value denotes 1 or 0 (R276, D25). -/
theorem flag_val (b : Bool) : TVal.val { ty := .u8, bits := if b then 1 else 0 } = if b then 1 else 0 := by
  cases b <;> rfl

/-- A typed value and its bits agree modulo two: the wrap to a type of any width keeps the low bit (R8). -/
theorem val_emod_two (v : TVal) : v.val % 2 = v.bits.toNat % 2 := by
  have hdvd : (2 : Int) ∣ 2 ^ v.ty.width := dvd_pow_self 2 (width_pos v.ty).ne'
  rw [val_of_bits, ← Int.emod_emod_of_dvd _ hdvd, wrapTo_mod, Int.emod_emod_of_dvd _ hdvd]

/-- The bit that `cpy.s ie, dA` keeps is the parity of the value, at every type (R277, D25). -/
theorem lowBit_eq (v : TVal) : v.bits.getLsbD 0 = decide (v.val % 2 = 1) := by
  have hparity := val_emod_two v
  rw [BitVec.getLsbD, Nat.testBit_zero, decide_eq_decide]
  omega

/-- Settles O54: out of `ie` and `xct` a scalar is written, into them the low bit or the cast to u32 of one. -/
theorem cpyOfIeAndXct : Obligations.CpyOfIeAndXct := by
  intro s a hm
  refine ⟨?fromIe, ?fromXct, ?toIe, ?toXct⟩
  case fromIe =>
    rw [← flag_val]
    exact cpyIntoScalar_gives hm rfl
  case fromXct =>
    rw [← ofU32_val]
    exact cpyIntoScalar_gives hm rfl
  case toIe =>
    rw [← lowBit_eq]
    exact supervisorOnly_fallsThrough hm rfl
  case toXct =>
    rw [← toU32_eq]
    exact supervisorOnly_fallsThrough hm rfl

/-! ### `cpy` in user mode -/

/-- Settles O57: each of the twelve is guarded by `supervisorOnly` at its own code, before it reads or writes anything. -/
theorem cpyInUserModeIsAnException : Obligations.CpyInUserModeIsAnException := by
  intro s a hm p hp
  suffices guarded : ∃ rest, exec p.1 s = supervisorOnly p.2 s rest by
    obtain ⟨_, he⟩ := guarded
    exact supervisorOnly_exception hm he
  revert p
  simp only [List.forall_mem_cons, List.not_mem_nil, false_imp_iff, implies_true, and_true]
  exact ⟨⟨_, rfl⟩, ⟨_, rfl⟩, ⟨_, rfl⟩, ⟨_, rfl⟩, ⟨_, rfl⟩, ⟨_, rfl⟩, ⟨_, rfl⟩, ⟨_, rfl⟩, ⟨_, rfl⟩, ⟨_, rfl⟩, ⟨_, rfl⟩,
    ⟨_, rfl⟩⟩

end Sys2Proof.Machine
end
